-- ==== Sys2Proof/Word.lean ====
section
/-! DEFINITION. The two unsigned types the block computes with: the byte (u8) and the nibble (u4), spec/00_scope.md R5. -/

namespace Sys2Proof

/-- `u8` of R5. -/
abbrev Byte := BitVec 8

/-- `u4` of R5. -/
abbrev Nibble := BitVec 4

end Sys2Proof
end

