-- ==== Sys2Proof/Config.lean ====
section
/-! DEFINITION. What one instance of the block is constructed with (spec/00_scope.md R4, spec/10_state.md R19, R20), the raw
arguments of its constructor (spec/70_reset_and_hazards.md R203), and the free values of the environment
(spec/20_memory.md R56, spec/93_implementation_defined.md U8 to U10). -/

namespace Sys2Proof

/-- `BL_POLARITY` (R4). -/
inductive Polarity where
  | activeHigh
  | activeLow
deriving DecidableEq, Repr

/-- Transport configuration, `Expander` variant (R19): the bus address and the bit position of each line in the port. -/
structure ExpanderCfg where
  addr7 : BitVec 7
  pRs : Fin 8
  pRw : Fin 8
  pE  : Fin 8
  pBl : Fin 8
  pD4 : Fin 8
  pD5 : Fin 8
  pD6 : Fin 8
  pD7 : Fin 8
deriving DecidableEq, Repr

/-- Transport configuration, `Gpio` variant (R20): host pin numbers, RW and the backlight optional. -/
structure GpioCfg where
  pinRs : Nat
  pinRw : Option Nat
  pinE  : Nat
  pinD4 : Nat
  pinD5 : Nat
  pinD6 : Nat
  pinD7 : Nat
  pinBl : Option Nat
deriving DecidableEq, Repr

/-- `VARIANT` with the fields of that variant (R4). -/
inductive Transport where
  | expander (x : ExpanderCfg)
  | gpio (g : GpioCfg)
deriving DecidableEq, Repr

/-- The per-instance parameters (R4), immutable after construction (R10). -/
structure Config where
  transport : Transport
  polarity : Polarity
  /-- `READ_SUPPORTED` (R4, R100). -/
  readSupported : Bool
deriving DecidableEq, Repr

/-- The instance X27 of spec/95_test_vectors.md: the Expander of the source's scenario 2, active-high, `READ_SUPPORTED`. -/
def Config.x27 : Config where
  transport := .expander
    { addr7 := 0x27, pRs := 0, pRw := 1, pE := 2, pBl := 3, pD4 := 4, pD5 := 5, pD6 := 6, pD7 := 7 }
  polarity := .activeHigh
  readSupported := true

/-- The raw transport arguments a host gives the constructor, before the checks of R203. -/
inductive TransportArgs where
  /-- `canRead`: the RW pin is wired and the chip reads back (R192, R216). -/
  | expander (addr7 pRs pRw pE pBl pD4 pD5 pD6 pD7 : Nat) (canRead : Bool)
  | gpio (pinRs : Nat) (pinRw : Option Nat) (pinE : Nat) (dataPins : List Nat) (pinBl : Option Nat)
deriving DecidableEq, Repr

/-- The raw arguments of the constructor (R203). -/
structure ConstructArgs where
  transport : TransportArgs
  polarity : Polarity
  /-- The host asks for `READ_SUPPORTED`. -/
  readAsked : Bool
deriving DecidableEq, Repr

/-- FREE VALUE (R56, U10; log 4): whether the bus acknowledges the n-th write no listed answer covers. -/
opaque Config.freeWriteAck : Nat → Bool

/-- FREE VALUE (R56, U9; log 4): what the bus answers to a read no listed answer covers, `none` being `fail`. -/
opaque Config.freeReadAnswer : Nat → Option Byte

/-- FREE VALUE (R99, U8; log 18): the nibble of a `read4bits` that failed. -/
opaque Config.freeNibble : Nat → Nibble

/-- FREE VALUE (R174, U8; log 18): the byte of a `getCharAt` that failed. -/
opaque Config.freeByte : Nat → Byte

end Sys2Proof
end

