-- ==== Sys2Proof/Syntax.lean ====
section
/-! DEFINITION. The instructions: one constructor per row of spec/opcode_table.json (spec/30_encoding.md R60 to R73, R79), the
names of the host operations, and the form in which a word of each format is presented. -/

namespace Sys2Proof

/-- `charSize` (spec/10_state.md R14). -/
inductive CharSize where
  | dots5x8
  | dots5x10
deriving DecidableEq, Repr

/-- The 23 host operations, in the order of their selectors (R79). -/
inductive HostOp where
  | begin | command | writeData | clear | home | display | noDisplay | cursor | noCursor | blink | noBlink
  | leftToRight | rightToLeft | autoscroll | noAutoscroll | scrollDisplayLeft | scrollDisplayRight
  | setCursor | createChar | setBacklight | write | writeString | getCharAt
deriving DecidableEq, Repr

/-- The rows of spec/opcode_table.json. The first twelve are the words the block emits (formats `CMD8`, `DATA8`, `NIB4`,
`PORT8`), the rest the operations the host issues (format `HOSTOP`). -/
inductive Instr where
  /-- CLEAR_DISPLAY (R61). -/
  | clearDisplay
  /-- RETURN_HOME (R62). -/
  | returnHome
  /-- ENTRY_MODE_SET (R64): flags I and S. -/
  | entryModeSet (inc shift : Bool)
  /-- DISPLAY_CONTROL (R65): flags D, C, B. -/
  | displayControl (display cursor blink : Bool)
  /-- CURSOR_DISPLAY_SHIFT (R66): flags M and R. -/
  | cursorDisplayShift (moveDisplay right : Bool)
  /-- FUNCTION_SET (R67): flags W, N, F. -/
  | functionSet (eightBit twoLine font5x10 : Bool)
  /-- SET_CGRAM_ADDRESS (R68). -/
  | setCgramAddress (addr : BitVec 6)
  /-- SET_DDRAM_ADDRESS (R63). -/
  | setDdramAddress (addr : BitVec 7)
  /-- DATA_BYTE (R70). -/
  | dataByte (byte : Byte)
  /-- WAKE (R71). -/
  | wake
  /-- TO4BIT (R71). -/
  | to4bit
  /-- PORT_WORD (R73): the nibble, E, RW, RS; the backlight bit is the block's own (R91, R217; log 11). -/
  | portWord (nibble : Nibble) (enable rw rs : Bool)
  /-- begin (R120). -/
  | begin (cols rows : Nat) (charSize : CharSize)
  /-- command (R111). -/
  | command (byte : Byte)
  /-- writeData (R112). -/
  | writeData (byte : Byte)
  /-- clear (R140). -/
  | clear
  /-- home (R141). -/
  | home
  /-- display (R142). -/
  | display
  /-- noDisplay (R143). -/
  | noDisplay
  /-- cursor (R144). -/
  | cursor
  /-- noCursor (R145). -/
  | noCursor
  /-- blink (R146). -/
  | blink
  /-- noBlink (R147). -/
  | noBlink
  /-- leftToRight (R148). -/
  | leftToRight
  /-- rightToLeft (R149). -/
  | rightToLeft
  /-- autoscroll (R150). -/
  | autoscroll
  /-- noAutoscroll (R151). -/
  | noAutoscroll
  /-- scrollDisplayLeft (R152). -/
  | scrollDisplayLeft
  /-- scrollDisplayRight (R153). -/
  | scrollDisplayRight
  /-- setCursor (R154). -/
  | setCursor (col row : Byte)
  /-- createChar (R155): the glyph has eight rows in a well-formed request (R184). -/
  | createChar (slot : Byte) (glyph : List Byte)
  /-- setBacklight (R173). -/
  | setBacklight (on : Bool)
  /-- write (R170). -/
  | write (byte : Byte)
  /-- writeString (R171). -/
  | writeString (bytes : List Byte)
  /-- getCharAt (R174). -/
  | getCharAt (col row : Byte)
deriving DecidableEq, Repr

/-- The formats of spec/opcode_table.json. What tells a command byte from a data byte is RS, not a bit of the byte (R60, R70), so
a presented word carries its format beside its bytes. -/
inductive Format where
  | hostOp
  | cmd8
  | data8
  | nib4
  | port8
deriving DecidableEq, Repr

/-- One word presented to the block: its format and its bytes, the table's word first, then the operands (log 6, log 7). -/
structure Request where
  format : Format
  bytes : List Byte
deriving DecidableEq, Repr

/-- Why a presented word stands for no instruction. -/
inductive DecodeError where
  /-- A selector outside 0x00..0x16 (R79; beyond 0x1F log 6). -/
  | unassignedSelector
  /-- Operands missing, left over, or outside their types (R184; a wire word of other than one byte, log 25). -/
  | illTypedOperands
  /-- A command byte that is no row of the catalogue: 0x00, or spare bits that are not 0 (R60). That such a bare byte is
  refused is the model's choice: R76 traps none (DESIGN CHOICE, log 25). -/
  | notInCatalogue
  /-- A nibble that is neither WAKE nor TO4BIT (R71); its refusal is the model's choice (DESIGN CHOICE, log 25). -/
  | notAWakeNibble
  /-- A port word on an instance without a port (R74), or one whose backlight bit is not the block's (R73, R217). -/
  | notAPortWord
deriving DecidableEq, Repr

end Sys2Proof
end

