-- ==== Sys2Proof/WellFormed.lean ====
section
/-! DEFINITION. Which instructions are well-typed (spec/60_exceptions.md R184, spec/30_encoding.md R79). -/

namespace Sys2Proof

/-- `cols` is 1..40 (spec/10_state.md R14, spec/42_init.md R120). -/
def colsOk (cols : Nat) : Bool := decide (1 ≤ cols) && decide (cols ≤ 40)

/-- `rows` is 1..4 (R14, R120). -/
def rowsOk (rows : Nat) : Bool := decide (1 ≤ rows) && decide (rows ≤ 4)

/-- A glyph is exactly eight rows (R184, D20). -/
def glyphOk (glyph : List Byte) : Bool := glyph.length == 8

/-- The operand types of R79 that the Lean types alone do not enforce. -/
def Instr.wellFormed : Instr → Bool
  | .clearDisplay => true
  | .returnHome => true
  | .entryModeSet _ _ => true
  | .displayControl _ _ _ => true
  | .cursorDisplayShift _ _ => true
  | .functionSet _ _ _ => true
  | .setCgramAddress _ => true
  | .setDdramAddress _ => true
  | .dataByte _ => true
  | .wake => true
  | .to4bit => true
  | .portWord _ _ _ _ => true
  | .begin cols rows _ => colsOk cols && rowsOk rows
  | .command _ => true
  | .writeData _ => true
  | .clear => true
  | .home => true
  | .display => true
  | .noDisplay => true
  | .cursor => true
  | .noCursor => true
  | .blink => true
  | .noBlink => true
  | .leftToRight => true
  | .rightToLeft => true
  | .autoscroll => true
  | .noAutoscroll => true
  | .scrollDisplayLeft => true
  | .scrollDisplayRight => true
  | .setCursor _ _ => true
  | .createChar _ glyph => glyphOk glyph
  | .setBacklight _ => true
  | .write _ => true
  | .writeString _ => true
  | .getCharAt _ _ => true

end Sys2Proof
end

