-- ==== Sys2Proof/Decode.lean ====
section
/-! DEFINITION. Encodings (spec/30_encoding.md): the flag values and bytes of the catalogue, the port word, the selectors; the
decoder from a presented word to an instruction, total, rejecting by name; and the encoder beside it. -/

namespace Sys2Proof

/-- The bits of a mask, or none (`b ? m : 0`, R5). -/
def bitIf (b : Bool) (m : Byte) : Byte := if b then m else 0

/-- Whether a byte has a flag of the given mask set. -/
def hasFlag (b m : Byte) : Bool := b &&& m != 0

/-! ## Flag values (spec/00_scope.md R4) -/

/-- `EM_INC`, derived from the source's scenario 6 (R64). -/
def EM_INC : Byte := 0x02
/-- `EM_SHIFT` (R64). -/
def EM_SHIFT : Byte := 0x01
/-- `DC_DISPLAY`. The spec has it from general knowledge, not from the source (D4; log 14). -/
def DC_DISPLAY : Byte := 0x04
/-- `DC_CURSOR` (D4; log 14). -/
def DC_CURSOR : Byte := 0x02
/-- `DC_BLINK` (D4; log 14). -/
def DC_BLINK : Byte := 0x01
/-- `SH_DISPLAY` (D5; log 14). -/
def SH_DISPLAY : Byte := 0x08
/-- `SH_RIGHT` (D5; log 14). -/
def SH_RIGHT : Byte := 0x04
/-- `FS_8BIT`, derived from the wake-up nibbles (R67). -/
def FS_8BIT : Byte := 0x10
/-- `FS_2LINE` (D6; log 14). -/
def FS_2LINE : Byte := 0x08
/-- `FS_5x10` (D6; log 14). -/
def FS_5x10 : Byte := 0x04

/-! ## The bytes of the catalogue (R60 to R68) -/

/-- Clear display (R61). -/
def clearByte : Byte := 0x01
/-- Return home (R62). -/
def homeByte : Byte := 0x02
/-- Base of Entry mode set (R64). -/
def ENTRY_BASE : Byte := 0x04
/-- Base of Display control (R65). -/
def DISPLAY_BASE : Byte := 0x08
/-- Base of Cursor/display shift (R66). -/
def SHIFT_BASE : Byte := 0x10
/-- Base of Function set (R67). -/
def FUNCTION_BASE : Byte := 0x20

/-- Entry mode set: `0x04 | entryMode` (R64). -/
def entryModeByte (entryMode : Byte) : Byte := ENTRY_BASE ||| entryMode
/-- Display control: `0x08 | displayControl` (R65). -/
def displayControlByte (displayControl : Byte) : Byte := DISPLAY_BASE ||| displayControl
/-- Cursor/display shift (R66). -/
def shiftByte (moveDisplay right : Bool) : Byte := SHIFT_BASE ||| bitIf moveDisplay SH_DISPLAY ||| bitIf right SH_RIGHT
/-- Function set: `0x20 | functionSet` (R67). -/
def functionSetByte (functionSet : Byte) : Byte := FUNCTION_BASE ||| functionSet
/-- Set CGRAM address: `0x40 | addr` (R68). -/
def cgramByte (addr : BitVec 6) : Byte := 0x40 ||| addr.setWidth 8
/-- Set DDRAM address: `0x80 | addr` (R63). -/
def ddramByte (addr : BitVec 7) : Byte := 0x80 ||| addr.setWidth 8

/-- The flag field of an entry mode (R11). -/
def entryModeFlags (inc shift : Bool) : Byte := bitIf inc EM_INC ||| bitIf shift EM_SHIFT
/-- The flag field of a display control (R12). -/
def displayFlags (display cursor blink : Bool) : Byte :=
  bitIf display DC_DISPLAY ||| bitIf cursor DC_CURSOR ||| bitIf blink DC_BLINK
/-- The flag field of a function set (R13). -/
def functionFlags (eightBit twoLine font5x10 : Bool) : Byte :=
  bitIf eightBit FS_8BIT ||| bitIf twoLine FS_2LINE ||| bitIf font5x10 FS_5x10

/-- `WAKE` (R71). -/
def wakeNibble : Nibble := 0x3
/-- `TO4BIT` (R71). -/
def to4bitNibble : Nibble := 0x2

/-! ## The port word (spec/40_transport.md R91, R92; R73) -/

/-- The backlight line's level (R91). -/
def Config.blLevel (c : Config) (backlight : Bool) : Bool :=
  match c.polarity with
  | .activeHigh => backlight
  | .activeLow => !backlight

/-- `M(x) = 1 << P_x` (R19). -/
def lineMask (p : Fin 8) : Byte := 1#8 <<< p.val

/-- The data bits of a nibble: bit i on D(4+i) (R92, R46). -/
def ExpanderCfg.dataBits (x : ExpanderCfg) (n : Nibble) : Byte :=
  bitIf (n.getLsbD 0) (lineMask x.pD4) ||| bitIf (n.getLsbD 1) (lineMask x.pD5)
    ||| bitIf (n.getLsbD 2) (lineMask x.pD6) ||| bitIf (n.getLsbD 3) (lineMask x.pD7)

/-- The port word of R73; `bl` is the level of the backlight line. -/
def ExpanderCfg.portByte (x : ExpanderCfg) (n : Nibble) (enable rw rs bl : Bool) : Byte :=
  x.dataBits n ||| bitIf rs (lineMask x.pRs) ||| bitIf rw (lineMask x.pRw) ||| bitIf bl (lineMask x.pBl)
    ||| bitIf enable (lineMask x.pE)

/-- A nibble from its four bits, bit 0 first. -/
def nibbleOf (b0 b1 b2 b3 : Bool) : Nibble :=
  BitVec.ofBool b3 ++ BitVec.ofBool b2 ++ BitVec.ofBool b1 ++ BitVec.ofBool b0

/-- The nibble on the data lines of a port byte (R99: `n[i] = b[P_D(4+i)]`). -/
def ExpanderCfg.nibbleAt (x : ExpanderCfg) (w : Byte) : Nibble :=
  nibbleOf (w.getLsbD x.pD4) (w.getLsbD x.pD5) (w.getLsbD x.pD6) (w.getLsbD x.pD7)

/-- Whether the instance can read (R100: an Expander with `READ_SUPPORTED`). -/
def Config.canRead (c : Config) : Bool :=
  match c.transport with
  | .expander _ => c.readSupported
  | .gpio _ => false

/-- Whether the instance has a port (R73, R74: the Expander variant). -/
def Config.hasPort (c : Config) : Bool :=
  match c.transport with
  | .expander _ => true
  | .gpio _ => false

/-! ## Decoding -/

/-- The catalogue, by the match and mask columns of R60. That a bare command byte matching no row is refused is the model's choice
(DESIGN CHOICE, log 25): R76 traps none of these bytes, and `command` sends each as given. -/
def decodeCmd8 (b : Byte) : Except DecodeError Instr :=
  if b &&& 0xFF = 0x01 then .ok .clearDisplay
  else if b &&& 0xFF = 0x02 then .ok .returnHome
  else if b &&& 0xFC = 0x04 then .ok (.entryModeSet (hasFlag b EM_INC) (hasFlag b EM_SHIFT))
  else if b &&& 0xF8 = 0x08 then .ok (.displayControl (hasFlag b DC_DISPLAY) (hasFlag b DC_CURSOR) (hasFlag b DC_BLINK))
  else if b &&& 0xF3 = 0x10 then .ok (.cursorDisplayShift (hasFlag b SH_DISPLAY) (hasFlag b SH_RIGHT))
  else if b &&& 0xE3 = 0x20 then .ok (.functionSet (hasFlag b FS_8BIT) (hasFlag b FS_2LINE) (hasFlag b FS_5x10))
  else if b &&& 0xC0 = 0x40 then .ok (.setCgramAddress (b.setWidth 6))
  else if b &&& 0x80 = 0x80 then .ok (.setDdramAddress (b.setWidth 7))
  else .error .notInCatalogue

/-- The single nibbles of R71, presented in the low half of a byte whose high half is 0; R71 gives two values, and that any other is
refused is the model's choice (DESIGN CHOICE, log 25). -/
def decodeNib4 (b : Byte) : Except DecodeError Instr :=
  if b = wakeNibble.setWidth 8 then .ok .wake
  else if b = to4bitNibble.setWidth 8 then .ok .to4bit
  else .error .notAWakeNibble

/-- The port word of R73 read back into its fields. Its backlight bit is the block's own and must be the level of the
backlight line (R91, R217); a Gpio instance has no port word (R74). -/
def decodePort8 (c : Config) (backlight : Bool) (w : Byte) : Except DecodeError Instr :=
  match c.transport with
  | .gpio _ => .error .notAPortWord
  | .expander x =>
    if w.getLsbD x.pBl = c.blLevel backlight then
      .ok (.portWord (x.nibbleAt w) (w.getLsbD x.pE) (w.getLsbD x.pRw) (w.getLsbD x.pRs))
    else .error .notAPortWord

/-- The selectors of R79. -/
def HostOp.ofSelector : Nat → Option HostOp
  | 0x00 => some .begin
  | 0x01 => some .command
  | 0x02 => some .writeData
  | 0x03 => some .clear
  | 0x04 => some .home
  | 0x05 => some .display
  | 0x06 => some .noDisplay
  | 0x07 => some .cursor
  | 0x08 => some .noCursor
  | 0x09 => some .blink
  | 0x0A => some .noBlink
  | 0x0B => some .leftToRight
  | 0x0C => some .rightToLeft
  | 0x0D => some .autoscroll
  | 0x0E => some .noAutoscroll
  | 0x0F => some .scrollDisplayLeft
  | 0x10 => some .scrollDisplayRight
  | 0x11 => some .setCursor
  | 0x12 => some .createChar
  | 0x13 => some .setBacklight
  | 0x14 => some .write
  | 0x15 => some .writeString
  | 0x16 => some .getCharAt
  | _ => none

/-- The selector of a host operation (R79). -/
def HostOp.selector : HostOp → Byte
  | .begin => 0x00
  | .command => 0x01
  | .writeData => 0x02
  | .clear => 0x03
  | .home => 0x04
  | .display => 0x05
  | .noDisplay => 0x06
  | .cursor => 0x07
  | .noCursor => 0x08
  | .blink => 0x09
  | .noBlink => 0x0A
  | .leftToRight => 0x0B
  | .rightToLeft => 0x0C
  | .autoscroll => 0x0D
  | .noAutoscroll => 0x0E
  | .scrollDisplayLeft => 0x0F
  | .scrollDisplayRight => 0x10
  | .setCursor => 0x11
  | .createChar => 0x12
  | .setBacklight => 0x13
  | .write => 0x14
  | .writeString => 0x15
  | .getCharAt => 0x16

/-- How many operand bytes a host operation's request has at least; only `writeString` has more (DESIGN CHOICE, log 6). -/
def HostOp.operandBytes : HostOp → Nat
  | .begin => 3
  | .command => 1
  | .writeData => 1
  | .setCursor => 2
  | .createChar => 9
  | .setBacklight => 1
  | .write => 1
  | .getCharAt => 2
  | .clear => 0
  | .home => 0
  | .display => 0
  | .noDisplay => 0
  | .cursor => 0
  | .noCursor => 0
  | .blink => 0
  | .noBlink => 0
  | .leftToRight => 0
  | .rightToLeft => 0
  | .autoscroll => 0
  | .noAutoscroll => 0
  | .scrollDisplayLeft => 0
  | .scrollDisplayRight => 0
  | .writeString => 0

/-- `charSize` as an operand byte: 0 is 5x8, 1 is 5x10 (DESIGN CHOICE, log 6). -/
def CharSize.toByte : CharSize → Byte
  | .dots5x8 => 0
  | .dots5x10 => 1

/-- The operands of `begin`, each of `cols` and `rows` presented less one (DESIGN CHOICE, log 6); out of range is ill-typed
(R184). -/
def decodeBegin (c r cs : Byte) : Except DecodeError Instr :=
  if colsOk (c.toNat + 1) && rowsOk (r.toNat + 1) then
    if cs = CharSize.toByte .dots5x8 then .ok (.begin (c.toNat + 1) (r.toNat + 1) .dots5x8)
    else if cs = CharSize.toByte .dots5x10 then .ok (.begin (c.toNat + 1) (r.toNat + 1) .dots5x10)
    else .error .illTypedOperands
  else .error .illTypedOperands

/-- An operation without operands (R79). -/
def noOperand (i : Instr) : List Byte → Except DecodeError Instr
  | [] => .ok i
  | _ :: _ => .error .illTypedOperands

/-- An operation with one `u8` operand (R79). -/
def oneOperand (k : Byte → Instr) : List Byte → Except DecodeError Instr
  | [b] => .ok (k b)
  | _ => .error .illTypedOperands

/-- An operation with two `u8` operands (R79). -/
def twoOperands (k : Byte → Byte → Instr) : List Byte → Except DecodeError Instr
  | [b, c] => .ok (k b c)
  | _ => .error .illTypedOperands

/-- A `u1` operand: 0 or 1 (R79). -/
def bitOperand (k : Bool → Instr) : List Byte → Except DecodeError Instr
  | [b] => if b = 0 then .ok (k false) else if b = 1 then .ok (k true) else .error .illTypedOperands
  | _ => .error .illTypedOperands

/-- The operands of `begin`; with two of them `charSize` is 5x8 (R120, D19). -/
def beginOperands : List Byte → Except DecodeError Instr
  | [c, r] => decodeBegin c r (CharSize.toByte .dots5x8)
  | [c, r, cs] => decodeBegin c r cs
  | _ => .error .illTypedOperands

/-- The operands of `createChar`: the slot, then the eight rows (R79, R184). -/
def glyphOperands : List Byte → Except DecodeError Instr
  | [] => .error .illTypedOperands
  | slot :: glyph => if glyphOk glyph then .ok (.createChar slot glyph) else .error .illTypedOperands

/-- The operands of a host operation, each byte used once and none left over (R79, R184; log 6). -/
def decodeOperands (op : HostOp) (args : List Byte) : Except DecodeError Instr :=
  match op with
  | .begin => beginOperands args
  | .command => oneOperand .command args
  | .writeData => oneOperand .writeData args
  | .clear => noOperand .clear args
  | .home => noOperand .home args
  | .display => noOperand .display args
  | .noDisplay => noOperand .noDisplay args
  | .cursor => noOperand .cursor args
  | .noCursor => noOperand .noCursor args
  | .blink => noOperand .blink args
  | .noBlink => noOperand .noBlink args
  | .leftToRight => noOperand .leftToRight args
  | .rightToLeft => noOperand .rightToLeft args
  | .autoscroll => noOperand .autoscroll args
  | .noAutoscroll => noOperand .noAutoscroll args
  | .scrollDisplayLeft => noOperand .scrollDisplayLeft args
  | .scrollDisplayRight => noOperand .scrollDisplayRight args
  | .setCursor => twoOperands .setCursor args
  | .createChar => glyphOperands args
  | .setBacklight => bitOperand .setBacklight args
  | .write => oneOperand .write args
  | .writeString => .ok (.writeString args)
  | .getCharAt => twoOperands .getCharAt args

/-- The decoder: what a presented word stands for on an instance of configuration `c` whose backlight bit is `backlight`.
A word the block emits is presented as exactly one byte (DESIGN CHOICE, log 25). -/
def decode (c : Config) (backlight : Bool) (r : Request) : Except DecodeError Instr :=
  match r.format, r.bytes with
  | .hostOp, sel :: args =>
    match HostOp.ofSelector sel.toNat with
    | some op => decodeOperands op args
    | none => .error .unassignedSelector
  | .cmd8, [b] => decodeCmd8 b
  | .data8, [b] => .ok (.dataByte b)
  | .nib4, [b] => decodeNib4 b
  | .port8, [w] => decodePort8 c backlight w
  | _, _ => .error .illTypedOperands

/-! ## Encoding -/

/-- A host operation's request: the selector, then the operands (R79; log 6). -/
def hostRequest (op : HostOp) (args : List Byte) : Request := ⟨.hostOp, op.selector :: args⟩

/-- The word of an instruction, from the same tables. A Gpio instance has no port word; its encoding there has no byte and
decodes to nothing (R74). -/
def encode (c : Config) (backlight : Bool) : Instr → Request
  | .clearDisplay => ⟨.cmd8, [clearByte]⟩
  | .returnHome => ⟨.cmd8, [homeByte]⟩
  | .entryModeSet inc shift => ⟨.cmd8, [entryModeByte (entryModeFlags inc shift)]⟩
  | .displayControl d cu bl => ⟨.cmd8, [displayControlByte (displayFlags d cu bl)]⟩
  | .cursorDisplayShift m r => ⟨.cmd8, [shiftByte m r]⟩
  | .functionSet w n f => ⟨.cmd8, [functionSetByte (functionFlags w n f)]⟩
  | .setCgramAddress a => ⟨.cmd8, [cgramByte a]⟩
  | .setDdramAddress a => ⟨.cmd8, [ddramByte a]⟩
  | .dataByte b => ⟨.data8, [b]⟩
  | .wake => ⟨.nib4, [wakeNibble.setWidth 8]⟩
  | .to4bit => ⟨.nib4, [to4bitNibble.setWidth 8]⟩
  | .portWord n e rw rs =>
    match c.transport with
    | .expander x => ⟨.port8, [x.portByte n e rw rs (c.blLevel backlight)]⟩
    | .gpio _ => ⟨.port8, []⟩
  | .begin cols rows cs => hostRequest .begin [BitVec.ofNat 8 (cols - 1), BitVec.ofNat 8 (rows - 1), cs.toByte]
  | .command b => hostRequest .command [b]
  | .writeData b => hostRequest .writeData [b]
  | .clear => hostRequest .clear []
  | .home => hostRequest .home []
  | .display => hostRequest .display []
  | .noDisplay => hostRequest .noDisplay []
  | .cursor => hostRequest .cursor []
  | .noCursor => hostRequest .noCursor []
  | .blink => hostRequest .blink []
  | .noBlink => hostRequest .noBlink []
  | .leftToRight => hostRequest .leftToRight []
  | .rightToLeft => hostRequest .rightToLeft []
  | .autoscroll => hostRequest .autoscroll []
  | .noAutoscroll => hostRequest .noAutoscroll []
  | .scrollDisplayLeft => hostRequest .scrollDisplayLeft []
  | .scrollDisplayRight => hostRequest .scrollDisplayRight []
  | .setCursor col row => hostRequest .setCursor [col, row]
  | .createChar slot glyph => hostRequest .createChar (slot :: glyph)
  | .setBacklight on => hostRequest .setBacklight [if on then 1 else 0]
  | .write b => hostRequest .write [b]
  | .writeString bytes => hostRequest .writeString bytes
  | .getCharAt col row => hostRequest .getCharAt [col, row]

/-! ## Words of the opcode table -/

/-- The format a bare table word is read in, the table's number not carrying one (DESIGN CHOICE, log 8): four bits are a `NIB4`;
otherwise a first byte below 0x20 fits a 5-bit selector and is a `HOSTOP`, and one that does not fit is a `CMD8`. -/
def tableFormat (nbits w : Nat) : Format :=
  if nbits = 4 then .nib4 else if w % 256 < 0x20 then .hostOp else .cmd8

/-- How many bytes the presented word has: the bits given, and with them the operand bytes its selector takes. -/
def tableLength (nbits w : Nat) : Nat :=
  let given := max 1 ((nbits + 7) / 8)
  match tableFormat nbits w with
  | .hostOp =>
    match HostOp.ofSelector (w % 256) with
    | some op => max given (1 + op.operandBytes)
    | none => given
  | _ => given

/-- The word of spec/opcode_table.json whose bits are `w`, the first byte its bits 7..0, every bit above `nbits` zero. -/
def tableRequest (nbits w : Nat) : Request :=
  ⟨tableFormat nbits w, (List.range (tableLength nbits w)).map fun k => BitVec.ofNat 8 ((w % 2 ^ nbits) >>> (8 * k))⟩

/-- The instruction the decoder reads from a word of spec/opcode_table.json. No format a table word is read in depends on the
configuration. -/
def decodeTableWord (nbits w : Nat) : Option Instr :=
  match decode Config.x27 false (tableRequest nbits w) with
  | .ok i => some i
  | .error _ => none

end Sys2Proof
end

