-- ==== Sys2Proof/Machine/State.lean ====
section
/-! DEFINITION. The state of one instance (spec/10_state.md R10 to R20), the trace and return value it hands out and the inputs it
is given (spec/00_scope.md R6, R7), the reasons a step can stop, and the state after reset (R27, R200). -/

namespace Sys2Proof.Machine

/-- `phase` (R17). -/
inductive Phase where
  | uninitialized
  | ready
deriving DecidableEq, Repr

/-- One event of the trace (R6), with the environment's answer where there is one (R56; log 17). -/
inductive Event where
  /-- `PinMode(pin, output)`. -/
  | pinMode (pin : Nat)
  /-- `PinWrite(pin, level)`. -/
  | pinWrite (pin : Nat) (level : Bool)
  /-- `BusWrite(addr7, w)`; `ack` is true for `ok`, false for `nack`. -/
  | busWrite (addr7 : BitVec 7) (w : Byte) (ack : Bool)
  /-- `BusRead(addr7)`; the answer is a byte, or `none` for `fail`. -/
  | busRead (addr7 : BitVec 7) (answer : Option Byte)
  /-- `Delay(n)`, in microseconds. -/
  | delay (us : Nat)
deriving DecidableEq, Repr

/-- What an operation hands to the host (R79 "returns"). -/
inductive Ret where
  /-- Nothing. -/
  | nothing
  /-- `begin`: success or failure. -/
  | status (success : Bool)
  /-- `writeData`, `write`, `writeString`: how many bytes were accepted. -/
  | accepted (count : Nat)
  /-- `getCharAt`: `(ok, byte)`. -/
  | char (ok : Bool) (byte : Byte)
deriving DecidableEq, Repr

/-- The environment as the block sees it (R56; log 4): the answers it will give, first first, and how many free values have been
drawn where no answer is listed. -/
structure Env where
  /-- One answer per `BusWrite`: true is `ok`, false is `nack`. -/
  writeAnswers : List Bool
  /-- One answer per `BusRead`: a byte, or `none` for `fail`. -/
  readAnswers : List (Option Byte)
  /-- The MODEL's own counter of free values (log 5). -/
  draws : Nat
deriving DecidableEq, Repr

/-- The three error kinds, by name alone: the spec gives them no numeric codes (R180, D26). None records an address or an
operation's encoding; what each records is `recordError`, who raises it `Raises`. -/
inductive ErrorKind where
  /-- A `BusWrite` answered `nack` or a `BusRead` answered `fail` (R181). -/
  | transportFailure
  /-- An operation but `begin` or `setBacklight` while Uninitialized (R182). -/
  | misuse
  /-- A row past the last in `setCursor` or `getCharAt`, a slot of 8 or more in `createChar` (R183). -/
  | outOfRange
deriving DecidableEq, Repr

/-- Why the machine stops with a fault. -/
inductive Fault where
  /-- `Misuse(op)` (R182): raised by every host operation but `begin` and `setBacklight` while Uninitialized. Safe: the spec's own
  fault, nothing emitted and nothing written (log 13). -/
  | misuse (op : HostOp)
deriving DecidableEq, Repr

/-- The error kind a fault is: of the three, misuse alone stops the machine (R180). -/
def Fault.kind : Fault → ErrorKind
  | .misuse _ => .misuse

/-- Why a presented word has no meaning. -/
inductive Refusal where
  /-- An instruction the model gives no meaning; raised by no arm of `exec`. Safe. -/
  | notModelled (mnemonic : String)
  /-- An ill-typed request (R184): raised by `step` where the decoder rejects the word, and by `begin` and `createChar` for
  operands outside their types. Safe: such a request is no operation of the block. Also a wire word that is no row of the opcode
  table, which is the model's choice (DESIGN CHOICE, log 25). -/
  | illTyped (why : DecodeError)
  /-- `getCharAt` on an instance that cannot read (R100, R174, R184). Safe. -/
  | readUnsupported
  /-- A port word on a Gpio instance (R73, R74: there is no packed word). Safe. -/
  | noPort
  /-- An operation presented while one is in progress (R184, R194): raised by `seqStep`, the machine that runs the handshake step by
  step; `exec` and `step` run each operation whole, so none can be presented inside one. Safe. -/
  | concurrentEntry
deriving DecidableEq, Repr

/-- The state of one instance. The first ten fields are the state of R10; `config` is the parameter of the step relation, fixed at
construction (log 1); the rest are the outputs and inputs of R7. -/
structure State where
  /-- R17. -/
  phase : Phase
  /-- R11. -/
  entryMode : Byte
  /-- R12. -/
  displayControl : Byte
  /-- R13. -/
  functionSet : Byte
  /-- R14: 1..40. -/
  cols : Nat
  /-- R14: 1..4. -/
  rows : Nat
  /-- R14. -/
  charSize : CharSize
  /-- R15: true is on. -/
  backlight : Bool
  /-- R18. -/
  opFail : Bool
  /-- R18. -/
  faultSeen : Bool
  /-- R19, R20, immutable after construction. -/
  config : Config
  /-- Requests presented and not yet consumed, oldest first (R59; log 7). -/
  requests : List Request
  /-- The environment's answers (R56; log 4). -/
  env : Env
  /-- The events emitted so far, oldest first (R7; log 17). -/
  trace : List Event
  /-- What the last host operation handed to the host (R7; log 16). -/
  ret : Ret
deriving DecidableEq, Repr

/-- The outcome of an instruction. -/
abbrev Result := Host.Outcome State Fault Refusal

/-- The state after reset (R27, R200) of an instance of configuration `c` whose reset events are `events` (R201, R202). The spec
gives `phase`, `backlight`, `opFail`, `faultSeen`; it says the six captured registers hold no value, and the values here are the
model's (DESIGN CHOICE, log 3). -/
def State.fresh (c : Config) (events : List Event) : State where
  phase := .uninitialized
  entryMode := 0
  displayControl := 0
  functionSet := 0
  cols := 1
  rows := 1
  charSize := .dots5x8
  backlight := false
  opFail := false
  faultSeen := false
  config := c
  requests := []
  env := { writeAnswers := [], readAnswers := [], draws := 0 }
  trace := events
  ret := .nothing

/-- The machine right after reset: the Expander instance X27, which emits nothing at construction (R201; log 2). -/
def State.reset : State := State.fresh Config.x27 []

end Sys2Proof.Machine
end

