-- ==== Sys2Proof/Machine/Flags.lean ====
section
/-! DEFINITION. The failure record (spec/10_state.md R18, R23, spec/60_exceptions.md R180, R181) and the update of a shadow's mode flags
(spec/43_commands.md R156). -/

namespace Sys2Proof.Machine

/-- What an error of this kind records, if it is `raised`: a transport failure `opFail <- 1; faultSeen <- 1`, with no transfer of
control; the other two nothing (R6, R180, R181, R187). -/
def recordError (k : ErrorKind) (raised : Bool) (s : State) : State :=
  match k with
  | .transportFailure => { s with opFail := s.opFail || raised, faultSeen := s.faultSeen || raised }
  | .misuse => s
  | .outOfRange => s

/-- `if f then raise TransportFailure` (R90, R110, R122). -/
def noteFailure (f : Bool) (s : State) : State := recordError .transportFailure f s

/-- `opFail <- 0`, at the start of an operation that passed its legality check (R18, D30). -/
def clearOpFail (s : State) : State := { s with opFail := false }

/-- `(shadow | SETMASK) & ~CLRMASK` (R156). -/
def updateFlags (shadow setMask clrMask : Byte) : Byte := (shadow ||| setMask) &&& ~~~clrMask

end Sys2Proof.Machine
end

