-- ==== Sys2Proof/Machine/Operands.lean ====
section
/-! DEFINITION. Operand assembly and address arithmetic (spec/30_encoding.md R75, R81, spec/20_memory.md R45, R52, R53). -/

namespace Sys2Proof.Machine

/-- `b[7:4]`, sent first (R45, R75 (e)). -/
def highNibble (b : Byte) : Nibble := (b >>> 4).setWidth 4

/-- `b[3:0]` (R45, R75 (e)). -/
def lowNibble (b : Byte) : Nibble := (b &&& 0x0F).setWidth 4

/-- `(hi << 4) | lo` (R174). -/
def joinNibbles (hi lo : Nibble) : Byte := (hi.setWidth 8 <<< 4) ||| lo.setWidth 8

/-- `ROWBASE[row]`, indexed by row number 0..3 (R52); no clamped row exceeds 3 (log 24). -/
def rowBase : Nat → Nat
  | 0 => 0x00
  | 1 => 0x40
  | 2 => 0x14
  | _ => 0x54

/-- Whether a row is `outOfRange`: `row >= rows` (R180, R183). -/
def rowOutOfRange (rows row : Nat) : Bool := decide (row ≥ rows)

/-- Whether a slot is `outOfRange`: `slot >= 8` (R180, R183). -/
def slotOutOfRange (slot : Byte) : Bool := decide (slot.toNat ≥ 8)

/-- `row' = (row >= rows) ? rows - 1 : row` (R75 (b), R183). -/
def clampRow (rows row : Nat) : Nat := if rowOutOfRange rows row then rows - 1 else row

/-- `(col + ROWBASE[row']) & 0x7F` (R75 (b), R81 (2)). -/
def ddramAddress (rows : Nat) (col row : Byte) : BitVec 7 :=
  BitVec.ofNat 7 (col.toNat + rowBase (clampRow rows row.toNat))

/-- `(slot & 0x07) << 3` (R75 (c), R81 (3)). -/
def cgramAddress (slot : Byte) : BitVec 6 := ((slot &&& 0x07) <<< 3).setWidth 6

/-- `(rows > 1 ? FS_2LINE : 0) | (charSize = 5x10 ? FS_5x10 : 0)` (R75 (d), R121). -/
def captureFunctionSet (rows : Nat) (charSize : CharSize) : Byte :=
  functionFlags false (decide (rows > 1)) (decide (charSize = .dots5x10))

end Sys2Proof.Machine
end

