-- ==== Sys2Proof/Machine/Ops.lean ====
section
/-! DEFINITION. The shared operations: the trace and the environment (spec/00_scope.md R6, R7, spec/20_memory.md R56), the
transport primitives of both variants (spec/40_transport.md R90 to R100), byte framing (spec/41_framing.md R110), and how an
operation starts (the `misuse` check, spec/60_exceptions.md R182), ends (R7) and is fetched (spec/20_memory.md R59). -/

namespace Sys2Proof.Machine

/-! ## Waits, in microseconds (spec/70_reset_and_hazards.md R213; D8, log 15) -/

/-- `T_POWERON`. -/
def T_POWERON : Nat := 40000
/-- `T_WAKE1`. -/
def T_WAKE1 : Nat := 4500
/-- `T_WAKE2`. -/
def T_WAKE2 : Nat := 150
/-- `T_WAKE3`. -/
def T_WAKE3 : Nat := 150
/-- `T_TO4`. -/
def T_TO4 : Nat := 150
/-- `T_CLEAR`. -/
def T_CLEAR : Nat := 2000
/-- `T_HOME`. -/
def T_HOME : Nat := 2000
/-- `T_EH`. -/
def T_EH : Nat := 1
/-- `T_EL`. -/
def T_EL : Nat := 37

/-! ## The trace and the environment -/

/-- `emit e`: append to the trace (R6, R57). -/
def emit (e : Event) (s : State) : State := { s with trace := s.trace ++ [e] }

/-- The environment's answer to the next `BusWrite`, true being `ok`: the next listed one, else a free value (R56; log 4). -/
def Env.takeWrite (e : Env) : Bool × Env :=
  match e.writeAnswers with
  | a :: rest => (a, { e with writeAnswers := rest })
  | [] => (Config.freeWriteAck e.draws, { e with draws := e.draws + 1 })

/-- The environment's answer to the next `BusRead`: the next listed one, else a free value (R56; log 4). -/
def Env.takeRead (e : Env) : Option Byte × Env :=
  match e.readAnswers with
  | a :: rest => (a, { e with readAnswers := rest })
  | [] => (Config.freeReadAnswer e.draws, { e with draws := e.draws + 1 })

/-- A free nibble (log 18). -/
def drawNibble (s : State) : Nibble × State :=
  (Config.freeNibble s.env.draws, { s with env := { s.env with draws := s.env.draws + 1 } })

/-- A free byte (log 18). -/
def drawByte (s : State) : Byte × State :=
  (Config.freeByte s.env.draws, { s with env := { s.env with draws := s.env.draws + 1 } })

/-- `r <- BusWrite(addr7, w)`; answers whether it failed, `r = nack` (R6). -/
def busWrite (addr7 : BitVec 7) (w : Byte) (s : State) : Bool × State :=
  let a := s.env.takeWrite
  (!a.1, emit (.busWrite addr7 w a.1) { s with env := a.2 })

/-- `b <- BusRead(addr7)` (R6). -/
def busRead (addr7 : BitVec 7) (s : State) : Option Byte × State :=
  let a := s.env.takeRead
  (a.1, emit (.busRead addr7 a.1) { s with env := a.2 })

/-- `PinWrite` on a pin that may be absent (R94, R97). -/
def emitOptionalPin (pin : Option Nat) (level : Bool) (s : State) : State :=
  match pin with
  | some p => emit (.pinWrite p level) s
  | none => s

/-! ## Transport primitives -/

/-- `blLevel` (R91). -/
def State.blLevel (s : State) : Bool := s.config.blLevel s.backlight

/-- The E-strobe on the bus (R93): the word with E low, with E high, with E low again, and the two waits. -/
def strobeWrites (x : ExpanderCfg) (w0 : Byte) (s : State) : Bool × State :=
  let r1 := busWrite x.addr7 w0 s
  let r2 := busWrite x.addr7 (w0 ||| lineMask x.pE) r1.2
  let r3 := busWrite x.addr7 w0 (emit (.delay T_EH) r2.2)
  (r1.1 || r2.1 || r3.1, emit (.delay T_EL) r3.2)

/-- `writeNibble(n, rs)`, Expander variant (R93). -/
def writeNibbleExpander (x : ExpanderCfg) (n : Nibble) (rs : Bool) (s : State) : Bool × State :=
  strobeWrites x (x.portByte n false false rs s.blLevel) s

/-- `writeNibble(n, rs)`, Gpio variant (R94); it cannot fail. -/
def writeNibbleGpio (g : GpioCfg) (n : Nibble) (rs : Bool) (s : State) : State :=
  let s := emit (.pinWrite g.pinRs rs) s
  let s := emitOptionalPin g.pinRw false s
  let s := emit (.pinWrite g.pinD4 (n.getLsbD 0)) s
  let s := emit (.pinWrite g.pinD5 (n.getLsbD 1)) s
  let s := emit (.pinWrite g.pinD6 (n.getLsbD 2)) s
  let s := emit (.pinWrite g.pinD7 (n.getLsbD 3)) s
  let s := emit (.pinWrite g.pinE true) s
  let s := emit (.delay T_EH) s
  let s := emit (.pinWrite g.pinE false) s
  emit (.delay T_EL) s

/-- The transport's `writeNibble(n, rs)` (R90): whether it failed, and the state after. -/
def writeNibble (n : Nibble) (rs : Bool) (s : State) : Bool × State :=
  match s.config.transport with
  | .expander x => writeNibbleExpander x n rs s
  | .gpio g => (false, writeNibbleGpio g n rs s)

/-- The transport's `setBacklight(on)` (R96, R97): the bit is written first, then flushed without pulsing E. -/
def transportSetBacklight (on : Bool) (s : State) : Bool × State :=
  let s := { s with backlight := on }
  match s.config.transport with
  | .expander x => busWrite x.addr7 (x.portByte 0 false false false s.blLevel) s
  | .gpio g => (false, emitOptionalPin g.pinBl s.blLevel s)

/-- What `read4bits` hands back. -/
structure ReadResult where
  failed : Bool
  nibble : Nibble
  state : State

/-- The nibble of a `read4bits`: the data bits of the byte read, or, where the read or one of the writes failed, the free value
given (R99; log 18). -/
def sampleNibble (x : ExpanderCfg) (failed : Bool) (answer : Option Byte) (free : Nibble) : Nibble :=
  match failed, answer with
  | false, some b => x.nibbleAt b
  | _, _ => free

/-- `read4bits(rs)` of an Expander with `READ_SUPPORTED` (R99): data lines written as 1, RW high, the port read while E is high. -/
def read4bits (x : ExpanderCfg) (rs : Bool) (s : State) : ReadResult :=
  let w0 := x.portByte 0xF false true rs s.blLevel
  let r1 := busWrite x.addr7 w0 s
  let r2 := busWrite x.addr7 (w0 ||| lineMask x.pE) r1.2
  let b := busRead x.addr7 (emit (.delay T_EH) r2.2)
  let r3 := busWrite x.addr7 w0 b.2
  let failed := r1.1 || r2.1 || r3.1 || b.1.isNone
  let free := drawNibble (emit (.delay T_EL) r3.2)
  ⟨failed, sampleNibble x failed b.1 free.1, free.2⟩

/-! ## Byte framing -/

/-- `send(b, rs)` (R110): high nibble, low nibble, then the failure noted; answers whether this byte failed. -/
def sendByte (b : Byte) (rs : Bool) (s : State) : Bool × State :=
  let r1 := writeNibble (highNibble b) rs s
  let r2 := writeNibble (lowNibble b) rs r1.2
  (r1.1 || r2.1, noteFailure (r1.1 || r2.1) r2.2)

/-- `send(b, rs)` (R110). -/
def send (b : Byte) (rs : Bool) (s : State) : State := (sendByte b rs s).2

/-- A single nibble with RS = 0, its failure noted (R71, R122). -/
def sendNibble (n : Nibble) (s : State) : State :=
  let r := writeNibble n false s
  noteFailure r.1 r.2

/-- `emit Delay(n)` (R58). -/
def wait (us : Nat) (s : State) : State := emit (.delay us) s

/-! ## How an operation starts and ends -/

/-- `if phase != Ready: raise Misuse(op)`, then `opFail <- 0` (R182, R186, D30): the machine's one fault, raised before any event
is emitted or register written. -/
def requireReady (op : HostOp) (s : State) (body : State → Result) : Result :=
  match s.phase with
  | .uninitialized => .fault (.misuse op)
  | .ready => body (clearOpFail s)

/-- `return v` (R6). -/
def returning (v : Ret) (s : State) : Result := .next { s with ret := v }

/-! ## Fetch -/

/-- The next request presented, and the state with it consumed (R59). -/
def fetchRequest (s : State) : Option (Request × State) :=
  match s.requests with
  | [] => none
  | r :: rest => some (r, { s with requests := rest })

end Sys2Proof.Machine
end

