-- ==== Sys2Proof/Machine/Wire.lean ====
section
/-! DEFINITION. The words the block emits (spec/30_encoding.md R60 to R73): the meaning of each is the emission of that one
transfer, as the host operations perform it. None checks the phase, clears `opFail` or returns a value: those belong to the host
operation (log 9, log 10). -/

namespace Sys2Proof.Machine

/-- A command byte with RS = 0 and no post-delay (R60). -/
def sendCommand (b : Byte) (s : State) : State := send b false s

/-- Clear display: byte 0x01, then `Delay(T_CLEAR)` (R61). -/
def transferClear (s : State) : State := wait T_CLEAR (sendCommand clearByte s)

/-- Return home: byte 0x02, then `Delay(T_HOME)` (R62). -/
def transferHome (s : State) : State := wait T_HOME (sendCommand homeByte s)

/-- CLEAR_DISPLAY (R61). -/
def execClearDisplay (s : State) : Result := .next (transferClear s)

/-- RETURN_HOME (R62). -/
def execReturnHome (s : State) : Result := .next (transferHome s)

/-- ENTRY_MODE_SET (R64). -/
def execEntryModeSet (inc shift : Bool) (s : State) : Result :=
  .next (sendCommand (entryModeByte (entryModeFlags inc shift)) s)

/-- DISPLAY_CONTROL (R65). -/
def execDisplayControl (display cursor blink : Bool) (s : State) : Result :=
  .next (sendCommand (displayControlByte (displayFlags display cursor blink)) s)

/-- CURSOR_DISPLAY_SHIFT (R66). -/
def execCursorDisplayShift (moveDisplay right : Bool) (s : State) : Result :=
  .next (sendCommand (shiftByte moveDisplay right) s)

/-- FUNCTION_SET (R67). -/
def execFunctionSet (eightBit twoLine font5x10 : Bool) (s : State) : Result :=
  .next (sendCommand (functionSetByte (functionFlags eightBit twoLine font5x10)) s)

/-- SET_CGRAM_ADDRESS (R68). -/
def execSetCgramAddress (addr : BitVec 6) (s : State) : Result := .next (sendCommand (cgramByte addr) s)

/-- SET_DDRAM_ADDRESS (R63). -/
def execSetDdramAddress (addr : BitVec 7) (s : State) : Result := .next (sendCommand (ddramByte addr) s)

/-- DATA_BYTE (R70): RS = 1. -/
def execDataByte (byte : Byte) (s : State) : Result := .next (send byte true s)

/-- WAKE (R71): the single nibble 0x3; the waits that follow it are `begin`'s (R122). -/
def execWake (s : State) : Result := .next (sendNibble wakeNibble s)

/-- TO4BIT (R71): the single nibble 0x2; the wait that follows it is `begin`'s (R122). -/
def execTo4bit (s : State) : Result := .next (sendNibble to4bitNibble s)

/-- PORT_WORD (R73): one `BusWrite` of the port word, the backlight bit composed into it (R91, R217), its failure noted (R90).
A Gpio instance has no port (R74; log 11). -/
def execPortWord (nibble : Nibble) (enable rw rs : Bool) (s : State) : Result :=
  match s.config.transport with
  | .expander x =>
    let r := busWrite x.addr7 (x.portByte nibble enable rw rs s.blLevel) s
    .next (noteFailure r.1 r.2)
  | .gpio _ => .refused .noPort

end Sys2Proof.Machine
end

