-- ==== Sys2Proof/Machine/Engine.lean ====
section
/-! DEFINITION. The engine's raw operations and the catalogue operations that write no shadow (spec/41_framing.md R111, R112,
spec/43_commands.md R140, R141, R152 to R155). -/

namespace Sys2Proof.Machine

/-- `writeData` under the name it reports (R112, R170): the byte is sent with RS = 1; 1 on success, 0 on a transport failure. -/
def writeOne (op : HostOp) (byte : Byte) (s : State) : Result :=
  requireReady op s fun s =>
    let s := send byte true s
    returning (.accepted (if s.opFail then 0 else 1)) s

/-- command (R111): any byte, RS = 0, no shadow written, no post-delay. -/
def execCommand (byte : Byte) (s : State) : Result :=
  requireReady .command s fun s => returning .nothing (send byte false s)

/-- writeData (R112). -/
def execWriteData (byte : Byte) (s : State) : Result := writeOne .writeData byte s

/-- clear (R140). -/
def execClear (s : State) : Result :=
  requireReady .clear s fun s => returning .nothing (transferClear s)

/-- home (R141). -/
def execHome (s : State) : Result :=
  requireReady .home s fun s => returning .nothing (transferHome s)

/-- scrollDisplayLeft (R152): 0x18. -/
def execScrollDisplayLeft (s : State) : Result :=
  requireReady .scrollDisplayLeft s fun s => returning .nothing (sendCommand (shiftByte true false) s)

/-- scrollDisplayRight (R153): 0x1C. -/
def execScrollDisplayRight (s : State) : Result :=
  requireReady .scrollDisplayRight s fun s => returning .nothing (sendCommand (shiftByte true true) s)

/-- setCursor (R154). -/
def execSetCursor (col row : Byte) (s : State) : Result :=
  requireReady .setCursor s fun s => returning .nothing (sendCommand (ddramByte (ddramAddress s.rows col row)) s)

/-- The data bytes of a glyph, in order (R155). -/
def sendAll : List Byte → State → State
  | [], s => s
  | b :: bs, s => sendAll bs (send b true s)

/-- createChar (R155); a glyph of other than eight rows is refused (R184). -/
def execCreateChar (slot : Byte) (glyph : List Byte) (s : State) : Result :=
  if glyphOk glyph then
    requireReady .createChar s fun s =>
      returning .nothing (sendAll glyph (sendCommand (cgramByte (cgramAddress slot)) s))
  else .refused (.illTyped .illTypedOperands)

end Sys2Proof.Machine
end

