-- ==== Sys2Proof/Machine/Facade.lean ====
section
/-! DEFINITION. The character-device facade (spec/44_facade.md R170 to R174). -/

namespace Sys2Proof.Machine

/-- write (R170): `writeData` in every respect. -/
def execWrite (byte : Byte) (s : State) : Result := writeOne .write byte s

/-- The bytes of a string, in order, and how many were acknowledged; a failed byte does not stop the string (R171, D31). -/
def sendString : List Byte → Nat → State → Nat × State
  | [], count, s => (count, s)
  | b :: bs, count, s =>
    let r := sendByte b true s
    sendString bs (if r.1 then count else count + 1) r.2

/-- writeString (R171). -/
def execWriteString (bytes : List Byte) (s : State) : Result :=
  requireReady .writeString s fun s =>
    let r := sendString bytes 0 s
    returning (.accepted r.1) r.2

/-- setBacklight (R173): legal in both phases. -/
def execSetBacklight (on : Bool) (s : State) : Result :=
  let r := transportSetBacklight on (clearOpFail s)
  returning .nothing (noteFailure r.1 r.2)

/-- The result of `getCharAt` (R174): the two nibbles on success, and on any transport failure `ok = 0` with a free byte (D24;
log 18). -/
def readResult (hi lo : Nibble) (s : State) : Result :=
  let free := drawByte s
  returning (if s.opFail then .char false free.1 else .char true (joinNibbles hi lo)) free.2

/-- The body of `getCharAt` on an instance that can read (R174): Set DDRAM address, then two read strobes with RS = 1. -/
def readCharAt (x : ExpanderCfg) (col row : Byte) (s : State) : Result :=
  let s := sendCommand (ddramByte (ddramAddress s.rows col row)) s
  let hi := read4bits x true s
  let lo := read4bits x true hi.state
  readResult hi.nibble lo.nibble (noteFailure (hi.failed || lo.failed) lo.state)

/-- getCharAt (R174); refused on an instance that cannot read (R100, R184). -/
def execGetCharAt (col row : Byte) (s : State) : Result :=
  match s.config.transport with
  | .gpio _ => .refused .readUnsupported
  | .expander x =>
    if s.config.readSupported then requireReady .getCharAt s (readCharAt x col row)
    else .refused .readUnsupported

end Sys2Proof.Machine
end

