-- ==== Sys2Proof/Machine/Handshake.lean ====
section
/-! DEFINITION. `begin` (spec/42_init.md R120 to R123). -/

namespace Sys2Proof.Machine

/-- State capture, before any event (R121). -/
def captureBegin (cols rows : Nat) (charSize : CharSize) (s : State) : State :=
  { clearOpFail s with
    cols := cols, rows := rows, charSize := charSize, functionSet := captureFunctionSet rows charSize }

/-- Step 1: the power-on wait, unconditional (R122, D9). -/
def beginStep1 (s : State) : State := wait T_POWERON s

/-- Steps 2 to 4: the wake-up nibble and its wait (R122). -/
def beginWake (us : Nat) (s : State) : State := wait us (sendNibble wakeNibble s)

/-- Step 5 (R122). -/
def beginStep5 (s : State) : State := wait T_TO4 (sendNibble to4bitNibble s)

/-- Step 6: function set (R122). -/
def beginStep6 (s : State) : State := sendCommand (functionSetByte s.functionSet) s

/-- Steps 7 and 10: a display control is written to the shadow, then sent (R122, R16). -/
def beginDisplay (flags : Byte) (s : State) : State :=
  sendCommand (displayControlByte flags) { s with displayControl := flags }

/-- Step 8: clear display (R122). -/
def beginStep8 (s : State) : State := transferClear s

/-- Step 9: the entry mode is written to the shadow, then sent (R122, R16). -/
def beginStep9 (s : State) : State := sendCommand (entryModeByte EM_INC) { s with entryMode := EM_INC }

/-- The ten steps, all of them whatever the transport answers (R122, D12). -/
def beginSequence (s : State) : State :=
  let s := beginStep1 s
  let s := beginWake T_WAKE1 s
  let s := beginWake T_WAKE2 s
  let s := beginWake T_WAKE3 s
  let s := beginStep5 s
  let s := beginStep6 s
  let s := beginDisplay 0x00 s
  let s := beginStep8 s
  let s := beginStep9 s
  beginDisplay DC_DISPLAY s

/-- Completion: `phase <- Ready` when and only when nothing failed (R123, R17). -/
def beginDone (s : State) : State := { s with phase := if s.opFail then s.phase else .ready }

/-- begin (R120 to R123): ill-typed operands are refused (R184), in Ready it fails at once with nothing emitted or written (D10). -/
def execBegin (cols rows : Nat) (charSize : CharSize) (s : State) : Result :=
  if colsOk cols && rowsOk rows then
    match s.phase with
    | .ready => returning (.status false) s
    | .uninitialized =>
      let s := beginSequence (captureBegin cols rows charSize s)
      returning (.status (!s.opFail)) (beginDone s)
  else .refused (.illTyped .illTypedOperands)

end Sys2Proof.Machine
end

