-- ==== Sys2Proof/Machine/Modes.lean ====
section
/-! DEFINITION. The ten mode-flag setters (spec/43_commands.md R142 to R151, R156). -/

namespace Sys2Proof.Machine

/-- A display-control setter: the shadow first, then the command (R156, R16). -/
def mutateDisplay (op : HostOp) (setMask clrMask : Byte) (s : State) : Result :=
  requireReady op s fun s =>
    let s := { s with displayControl := updateFlags s.displayControl setMask clrMask }
    returning .nothing (sendCommand (displayControlByte s.displayControl) s)

/-- An entry-mode setter: the shadow first, then the command (R156, R16). -/
def mutateEntry (op : HostOp) (setMask clrMask : Byte) (s : State) : Result :=
  requireReady op s fun s =>
    let s := { s with entryMode := updateFlags s.entryMode setMask clrMask }
    returning .nothing (sendCommand (entryModeByte s.entryMode) s)

/-- display (R142). -/
def execDisplay (s : State) : Result := mutateDisplay .display DC_DISPLAY 0 s

/-- noDisplay (R143). -/
def execNoDisplay (s : State) : Result := mutateDisplay .noDisplay 0 DC_DISPLAY s

/-- cursor (R144). -/
def execCursor (s : State) : Result := mutateDisplay .cursor DC_CURSOR 0 s

/-- noCursor (R145). -/
def execNoCursor (s : State) : Result := mutateDisplay .noCursor 0 DC_CURSOR s

/-- blink (R146). -/
def execBlink (s : State) : Result := mutateDisplay .blink DC_BLINK 0 s

/-- noBlink (R147). -/
def execNoBlink (s : State) : Result := mutateDisplay .noBlink 0 DC_BLINK s

/-- leftToRight (R148). -/
def execLeftToRight (s : State) : Result := mutateEntry .leftToRight EM_INC 0 s

/-- rightToLeft (R149). -/
def execRightToLeft (s : State) : Result := mutateEntry .rightToLeft 0 EM_INC s

/-- autoscroll (R150). -/
def execAutoscroll (s : State) : Result := mutateEntry .autoscroll EM_SHIFT 0 s

/-- noAutoscroll (R151). -/
def execNoAutoscroll (s : State) : Result := mutateEntry .noAutoscroll 0 EM_SHIFT s

end Sys2Proof.Machine
end

