-- ==== Sys2Proof/Machine/Dispatch.lean ====
section
/-! DEFINITION. One arm per row of spec/opcode_table.json. -/

namespace Sys2Proof.Machine

def exec (i : Instr) (s : State) : Host.Outcome State Fault Refusal :=
  match i with
  -- the words the block emits
  | .clearDisplay => Sys2Proof.Machine.execClearDisplay s
  | .returnHome => Sys2Proof.Machine.execReturnHome s
  | .entryModeSet inc shift => Sys2Proof.Machine.execEntryModeSet inc shift s
  | .displayControl display cursor blink => Sys2Proof.Machine.execDisplayControl display cursor blink s
  | .cursorDisplayShift moveDisplay right => Sys2Proof.Machine.execCursorDisplayShift moveDisplay right s
  | .functionSet eightBit twoLine font => Sys2Proof.Machine.execFunctionSet eightBit twoLine font s
  | .setCgramAddress addr => Sys2Proof.Machine.execSetCgramAddress addr s
  | .setDdramAddress addr => Sys2Proof.Machine.execSetDdramAddress addr s
  | .dataByte byte => Sys2Proof.Machine.execDataByte byte s
  | .wake => Sys2Proof.Machine.execWake s
  | .to4bit => Sys2Proof.Machine.execTo4bit s
  | .portWord nibble enable rw rs => Sys2Proof.Machine.execPortWord nibble enable rw rs s
  -- the host operations
  | .begin cols rows charSize => Sys2Proof.Machine.execBegin cols rows charSize s
  | .command byte => Sys2Proof.Machine.execCommand byte s
  | .writeData byte => Sys2Proof.Machine.execWriteData byte s
  | .clear => Sys2Proof.Machine.execClear s
  | .home => Sys2Proof.Machine.execHome s
  | .display => Sys2Proof.Machine.execDisplay s
  | .noDisplay => Sys2Proof.Machine.execNoDisplay s
  | .cursor => Sys2Proof.Machine.execCursor s
  | .noCursor => Sys2Proof.Machine.execNoCursor s
  | .blink => Sys2Proof.Machine.execBlink s
  | .noBlink => Sys2Proof.Machine.execNoBlink s
  | .leftToRight => Sys2Proof.Machine.execLeftToRight s
  | .rightToLeft => Sys2Proof.Machine.execRightToLeft s
  | .autoscroll => Sys2Proof.Machine.execAutoscroll s
  | .noAutoscroll => Sys2Proof.Machine.execNoAutoscroll s
  | .scrollDisplayLeft => Sys2Proof.Machine.execScrollDisplayLeft s
  | .scrollDisplayRight => Sys2Proof.Machine.execScrollDisplayRight s
  | .setCursor col row => Sys2Proof.Machine.execSetCursor col row s
  | .createChar slot glyph => Sys2Proof.Machine.execCreateChar slot glyph s
  | .setBacklight on => Sys2Proof.Machine.execSetBacklight on s
  | .write byte => Sys2Proof.Machine.execWrite byte s
  | .writeString bytes => Sys2Proof.Machine.execWriteString bytes s
  | .getCharAt col row => Sys2Proof.Machine.execGetCharAt col row s

end Sys2Proof.Machine
end

