-- ==== Sys2Proof/Machine/Step.lean ====
section
/-! DEFINITION. One step: the next request presented is decoded and run (spec/00_scope.md R7, spec/20_memory.md R59). -/

namespace Sys2Proof.Machine

/-- One step. With no request presented the block idles (R200); a word that decodes to no instruction is refused (R184). -/
def step (s : State) : Host.Outcome State Fault Refusal :=
  match fetchRequest s with
  | none => .next s
  | some (r, rest) =>
    match decode s.config s.backlight r with
    | .ok i => exec i rest
    | .error e => .refused (.illTyped e)

/-- The state with the opcode-table word `w` presented as the next request (log 8). -/
def State.withFetchWord (s : State) (nbits w : Nat) : State :=
  { s with requests := tableRequest nbits w :: s.requests }

end Sys2Proof.Machine
end

