-- ==== Sys2Proof/Machine/Sequencer.lean ====
section
/-! DEFINITION. The handshake as a state machine (spec/42_init.md R124): the block stepped at the grain of the ten steps of `begin`,
where an operation can be presented while another is in progress (spec/60_exceptions.md R184, R194). -/

namespace Sys2Proof.Machine

/-- The states of R124: idle, "step k is next", the decision, and idle in Ready. -/
inductive SeqState where
  | i0 | i1 | i2 | i3 | i4 | i5 | i6 | i7 | i8 | i9 | i10 | done | readyIdle
deriving DecidableEq, Repr

/-- The outcome of a transition. -/
abbrev SeqResult := Host.Outcome (SeqState × State) Fault Refusal

/-- Whether no operation is in progress (R124, R7). -/
def SeqState.idle : SeqState → Bool
  | .i0 => true
  | .i1 => false
  | .i2 => false
  | .i3 => false
  | .i4 => false
  | .i5 => false
  | .i6 => false
  | .i7 => false
  | .i8 => false
  | .i9 => false
  | .i10 => false
  | .done => false
  | .readyIdle => true

/-- Leaving `DONE`: the phase is decided and the result returned (R123). -/
def seqComplete (s : State) : State := { beginDone s with ret := .status (!s.opFail) }

/-- The action on leaving a state with nothing presented (R124). -/
def seqAction : SeqState → State → State
  | .i0, s => s
  | .i1, s => wait T_POWERON s
  | .i2, s => wait T_WAKE1 (sendNibble wakeNibble s)
  | .i3, s => wait T_WAKE2 (sendNibble wakeNibble s)
  | .i4, s => wait T_WAKE3 (sendNibble wakeNibble s)
  | .i5, s => wait T_TO4 (sendNibble to4bitNibble s)
  | .i6, s => send (0x20 ||| s.functionSet) false s
  | .i7, s => send 0x08 false { s with displayControl := 0x00 }
  | .i8, s => wait T_CLEAR (send 0x01 false s)
  | .i9, s => send 0x06 false { s with entryMode := EM_INC }
  | .i10, s => send 0x0C false { s with displayControl := DC_DISPLAY }
  | .done, s => seqComplete s
  | .readyIdle, s => s

/-- The state after it (R124): the idle states stay, only `DONE` looks at `opFail`, `I1` to `I10` look at nothing. -/
def seqNext : SeqState → State → SeqState
  | .i0, _ => .i0
  | .i1, _ => .i2
  | .i2, _ => .i3
  | .i3, _ => .i4
  | .i4, _ => .i5
  | .i5, _ => .i6
  | .i6, _ => .i7
  | .i7, _ => .i8
  | .i8, _ => .i9
  | .i9, _ => .i10
  | .i10, _ => .done
  | .done, s => if s.opFail then .i0 else .readyIdle
  | .readyIdle, _ => .readyIdle

/-- An instruction run whole, the machine staying in the state it is in. -/
def seqWhole (p : SeqState) (i : Instr) (s : State) : SeqResult :=
  match exec i s with
  | .next t => .next (p, t)
  | .fault f => .fault f
  | .refused r => .refused r

/-- What is presented in `I0`: a well-typed `begin` captures its operands and starts the sequence (R121, R124), an ill-typed one is
refused (R184), and anything else is run whole (R190). -/
def seqStart (i : Instr) (s : State) : SeqResult :=
  match i with
  | .begin cols rows charSize =>
    if colsOk cols && rowsOk rows then .next (.i1, captureBegin cols rows charSize s)
    else .refused (.illTyped .illTypedOperands)
  | other => seqWhole .i0 other s

/-- What is presented in a state: in Ready every instruction is run whole, `begin` too (R120, D10); with an operation in progress it
is refused (R184, R194). -/
def seqPresented (i : Instr) : SeqState → State → SeqResult
  | .i0, s => seqStart i s
  | .i1, _ => .refused .concurrentEntry
  | .i2, _ => .refused .concurrentEntry
  | .i3, _ => .refused .concurrentEntry
  | .i4, _ => .refused .concurrentEntry
  | .i5, _ => .refused .concurrentEntry
  | .i6, _ => .refused .concurrentEntry
  | .i7, _ => .refused .concurrentEntry
  | .i8, _ => .refused .concurrentEntry
  | .i9, _ => .refused .concurrentEntry
  | .i10, _ => .refused .concurrentEntry
  | .done, _ => .refused .concurrentEntry
  | .readyIdle, s => seqWhole .readyIdle i s

/-- One transition of R124, with the instruction the host presents at it, if any. -/
def seqStep (offer : Option Instr) (p : SeqState × State) : SeqResult :=
  match offer with
  | none => .next (seqNext p.1 p.2, seqAction p.1 p.2)
  | some i => seqPresented i p.1 p.2

/-- One transition for each entry of the list of what the host presents, up to the first fault or refusal. -/
def seqRun : List (Option Instr) → SeqState × State → SeqResult
  | [], p => .next p
  | offer :: offers, p =>
    match seqStep offer p with
    | .next q => seqRun offers q
    | .fault f => .fault f
    | .refused r => .refused r

end Sys2Proof.Machine
end

