-- ==== Sys2Proof/Machine/Construct.lean ====
section
/-! DEFINITION. Construction of an instance, which is its reset (spec/70_reset_and_hazards.md R200 to R203): the checks on the raw
arguments, the reset events, and when a configuration is valid. -/

namespace Sys2Proof

/-- The eight positions of an Expander, in the order RS, RW, E, BL, D4 to D7. -/
def expanderPositions (x : ExpanderCfg) : List (Fin 8) := [x.pRs, x.pRw, x.pE, x.pBl, x.pD4, x.pD5, x.pD6, x.pD7]

/-- The configured pins of a Gpio instance, in the order of R202: RS, RW, E, D4 to D7, backlight, absent ones skipped. -/
def gpioPins (g : GpioCfg) : List Nat :=
  [g.pinRs] ++ g.pinRw.toList ++ [g.pinE, g.pinD4, g.pinD5, g.pinD6, g.pinD7] ++ g.pinBl.toList

/-- A configuration an instance can have: all lines distinct (R19, R20), reading only on an Expander (R4, R100, R203 (c)). -/
def Config.valid (c : Config) : Bool :=
  match c.transport with
  | .expander x => decide (expanderPositions x).Nodup
  | .gpio g => decide (gpioPins g).Nodup && !c.readSupported

end Sys2Proof

namespace Sys2Proof.Machine

/-- A bit position from a raw number, none outside 0..7 (R203 (a)). -/
def position (p : Nat) : Option (Fin 8) := if h : p < 8 then some ⟨p, h⟩ else none

/-- An `ADDR7` from a raw number, none outside 0..0x7F (R203 (a)). -/
def address7 (a : Nat) : Option (BitVec 7) := if a ≤ 0x7F then some (BitVec.ofNat 7 a) else none

/-- The typed transport, where the raw arguments have one: positions and address in range, exactly four data pins (R203, D3). -/
def transportOf : TransportArgs → Option Transport
  | .expander a rs rw e bl d4 d5 d6 d7 _ => do
    return .expander
      { addr7 := ← address7 a, pRs := ← position rs, pRw := ← position rw, pE := ← position e, pBl := ← position bl,
        pD4 := ← position d4, pD5 := ← position d5, pD6 := ← position d6, pD7 := ← position d7 }
  | .gpio rs rw e [d4, d5, d6, d7] bl =>
    some (.gpio { pinRs := rs, pinRw := rw, pinE := e, pinD4 := d4, pinD5 := d5, pinD6 := d6, pinD7 := d7, pinBl := bl })
  | .gpio _ _ _ _ _ => none

/-- Whether the transport the arguments describe can be read (R192, R216; log 19). -/
def transportReads : TransportArgs → Bool
  | .expander _ _ _ _ _ _ _ _ _ canRead => canRead
  | .gpio _ _ _ _ _ => false

/-- The configuration the constructor's arguments give, none where R203 refuses them. -/
def configOf (a : ConstructArgs) : Option Config :=
  match transportOf a.transport with
  | none => none
  | some t =>
    let c : Config := { transport := t, polarity := a.polarity, readSupported := a.readAsked }
    if c.valid && (!a.readAsked || transportReads a.transport) then some c else none

/-- The reset events (R201: none on an Expander; R202: the pin set-up on a Gpio instance, the backlight pin at its off level). -/
def resetEvents (c : Config) : List Event :=
  match c.transport with
  | .expander _ => []
  | .gpio g =>
    (gpioPins g).map .pinMode ++ [.pinWrite g.pinRs false] ++ (g.pinRw.toList.map fun p => .pinWrite p false)
      ++ [.pinWrite g.pinE false] ++ (g.pinBl.toList.map fun p => .pinWrite p (c.blLevel false))

/-- Construction: a partial function from the constructor's arguments to the state after reset (R200, R203). -/
def construct (a : ConstructArgs) : Option State :=
  match configOf a with
  | some c => some (State.fresh c (resetEvents c))
  | none => none

/-- The constructor's arguments of the instance X27 (spec/95_test_vectors.md). -/
def x27Args : ConstructArgs where
  transport := .expander 0x27 0 1 2 3 4 5 6 7 true
  polarity := .activeHigh
  readAsked := true

end Sys2Proof.Machine
end

