-- ==== Sys2Proof/Machine/Trace.lean ====
section
/-! DEFINITION. What an observer reads off the trace (spec/00_scope.md R7): the block's own part of each event, the levels it puts on
the lines, the strobes these make (spec/30_encoding.md R72, spec/40_transport.md R95), the expander's latch (spec/10_state.md
R24), the waits, and whether any answer was a failure. No meaning uses these; statements do. -/

namespace Sys2Proof.Machine

/-- An event with the environment's answer taken out of it: what the block itself decides (R22, D12). -/
inductive Emission where
  | pinMode (pin : Nat)
  | pinWrite (pin : Nat) (level : Bool)
  | busWrite (addr7 : BitVec 7) (w : Byte)
  | busRead (addr7 : BitVec 7)
  | delay (us : Nat)
deriving DecidableEq, Repr

/-- The block's part of an event. -/
def Event.emission : Event → Emission
  | .pinMode p => .pinMode p
  | .pinWrite p v => .pinWrite p v
  | .busWrite a w _ => .busWrite a w
  | .busRead a _ => .busRead a
  | .delay us => .delay us

/-- The block's part of a list of events. -/
def emissions (es : List Event) : List Emission := es.map Event.emission

/-! ## Answers -/

/-- An event fails when it is a `BusWrite` answered `nack` or a `BusRead` answered `fail` (R18, R180). -/
def Event.failed : Event → Bool
  | .busWrite _ _ ack => !ack
  | .busRead _ answer => answer.isNone
  | .pinMode _ => false
  | .pinWrite _ _ => false
  | .delay _ => false

/-- Whether any event of a list failed. -/
def anyFailed (es : List Event) : Bool := es.any Event.failed

/-- The answer to a `BusWrite`. -/
def Event.writeAnswer : Event → Option Bool
  | .busWrite _ _ ack => some ack
  | .busRead _ _ => none
  | .pinMode _ => none
  | .pinWrite _ _ => none
  | .delay _ => none

/-- The answers to the bus writes of a list of events, in order. -/
def writeAnswersOf (es : List Event) : List Bool := es.filterMap Event.writeAnswer

/-- The answer to a `BusRead`. -/
def Event.readAnswer : Event → Option (Option Byte)
  | .busRead _ answer => some answer
  | .busWrite _ _ _ => none
  | .pinMode _ => none
  | .pinWrite _ _ => none
  | .delay _ => none

/-- The answers to the bus reads of a list of events, in order. -/
def readAnswersOf (es : List Event) : List (Option Byte) := es.filterMap Event.readAnswer

/-- The expander's latch: the last word acknowledged, unknown before the first (R24). -/
def latch : List Event → Option Byte
  | [] => none
  | e :: es =>
    match latch es, e with
    | some w, _ => some w
    | none, .busWrite _ w true => some w
    | none, _ => none

/-- The level of a pin: the last one written to it, unknown before the first (R24). -/
def pinLevel (pin : Nat) : List Event → Option Bool
  | [] => none
  | e :: es =>
    match pinLevel pin es, e with
    | some v, _ => some v
    | none, .pinWrite p v => if p = pin then some v else none
    | none, _ => none

/-! ## Waits and counts -/

/-- The wait an emission asks for, in microseconds. -/
def Emission.waits : Emission → Nat
  | .delay us => us
  | .busWrite _ _ => 0
  | .busRead _ => 0
  | .pinMode _ => 0
  | .pinWrite _ _ => 0

/-- The waits of a list of emissions added up (R126, R213). -/
def totalWait (es : List Emission) : Nat := (es.map Emission.waits).sum

/-- Whether an emission is a bus write. -/
def Emission.isBusWrite : Emission → Bool
  | .busWrite _ _ => true
  | .busRead _ => false
  | .pinMode _ => false
  | .pinWrite _ _ => false
  | .delay _ => false

/-- How many bus writes a list of emissions has (R114). -/
def busWrites (es : List Emission) : Nat := es.countP Emission.isBusWrite

/-! ## Lines and strobes -/

/-- The levels driven on the lines to the controller. -/
structure Lines where
  rs : Bool
  rw : Bool
  e  : Bool
  bl : Bool
  d4 : Bool
  d5 : Bool
  d6 : Bool
  d7 : Bool
deriving DecidableEq, Repr

/-- The nibble on the data lines, bit i on D(4+i) (R46). -/
def Lines.nibble (l : Lines) : Nibble := nibbleOf l.d4 l.d5 l.d6 l.d7

/-- One E-strobe: the nibble, RS and RW it latches (R72: `(n, rs, rw)`). -/
structure Strobe where
  nibble : Nibble
  rs : Bool
  rw : Bool
deriving DecidableEq, Repr

/-- The lines as a port word drives them (R43, R73). -/
def portLines (x : ExpanderCfg) (w : Byte) : Lines where
  rs := w.getLsbD x.pRs
  rw := w.getLsbD x.pRw
  e := w.getLsbD x.pE
  bl := w.getLsbD x.pBl
  d4 := w.getLsbD x.pD4
  d5 := w.getLsbD x.pD5
  d6 := w.getLsbD x.pD6
  d7 := w.getLsbD x.pD7

/-- A line after a level is put on pin `p`: the level if `p` is its pin, else what it held. -/
def drivenBit (pin p : Nat) (level old : Bool) : Bool := if p = pin then level else old

/-- The lines after a pin is written (R44, R74); with no RW pin the line is strapped low outside the block (R20). -/
def pinLines (g : GpioCfg) (l : Lines) (p : Nat) (v : Bool) : Lines where
  rs := drivenBit g.pinRs p v l.rs
  rw := match g.pinRw with
    | some q => drivenBit q p v l.rw
    | none => false
  e := drivenBit g.pinE p v l.e
  bl := match g.pinBl with
    | some q => drivenBit q p v l.bl
    | none => l.bl
  d4 := drivenBit g.pinD4 p v l.d4
  d5 := drivenBit g.pinD5 p v l.d5
  d6 := drivenBit g.pinD6 p v l.d6
  d7 := drivenBit g.pinD7 p v l.d7

/-- The lines after an emission, as the block drives them: a word counts as driven whatever its answer (log 20). -/
def linesAfter (t : Transport) (l : Lines) : Emission → Lines
  | .busWrite _ w =>
    match t with
    | .expander x => portLines x w
    | .gpio _ => l
  | .pinWrite p v =>
    match t with
    | .expander _ => l
    | .gpio g => pinLines g l p v
  | .pinMode _ => l
  | .busRead _ => l
  | .delay _ => l

/-- The lines after a list of emissions. -/
def linesAfterAll (t : Transport) : Lines → List Emission → Lines
  | l, [] => l
  | l, e :: es => linesAfterAll t (linesAfter t l e) es

/-- The strobes of a list of emissions, from the lines `l`: one where E falls, carrying what the lines hold (R95). -/
def strobes (t : Transport) : Lines → List Emission → List Strobe
  | _, [] => []
  | l, e :: es =>
    let l' := linesAfter t l e
    if l.e && !l'.e then ⟨l.nibble, l.rs, l.rw⟩ :: strobes t l' es else strobes t l' es

/-- How often E rises over a list of emissions. -/
def risingEdges (t : Transport) : Lines → List Emission → Nat
  | _, [] => 0
  | l, e :: es =>
    let l' := linesAfter t l e
    (if !l.e && l'.e then 1 else 0) + risingEdges t l' es

/-- The two strobes of a byte written, high nibble first, RW = 0 (R72, R110); `rs` is 0 for a command, 1 for data. -/
def byteStrobes (rs : Bool) (b : Byte) : List Strobe := [⟨highNibble b, rs, false⟩, ⟨lowNibble b, rs, false⟩]

/-! ## What the transport primitives emit -/

/-- The emissions of `writeNibble(n, rs)` (R93, R94). -/
def nibbleEmissions (c : Config) (backlight : Bool) (n : Nibble) (rs : Bool) : List Emission :=
  match c.transport with
  | .expander x =>
    let bl := c.blLevel backlight
    [.busWrite x.addr7 (x.portByte n false false rs bl), .busWrite x.addr7 (x.portByte n true false rs bl), .delay 1,
      .busWrite x.addr7 (x.portByte n false false rs bl), .delay 37]
  | .gpio g =>
    [.pinWrite g.pinRs rs] ++ (g.pinRw.toList.map fun p => .pinWrite p false)
      ++ [.pinWrite g.pinD4 (n.getLsbD 0), .pinWrite g.pinD5 (n.getLsbD 1), .pinWrite g.pinD6 (n.getLsbD 2),
        .pinWrite g.pinD7 (n.getLsbD 3), .pinWrite g.pinE true, .delay 1, .pinWrite g.pinE false, .delay 37]

/-- The emissions of `send(b, rs)` (R110). -/
def byteEmissions (c : Config) (backlight : Bool) (rs : Bool) (b : Byte) : List Emission :=
  nibbleEmissions c backlight (highNibble b) rs ++ nibbleEmissions c backlight (lowNibble b) rs

/-- The emissions of `read4bits(rs)` (R99). -/
def readEmissions (x : ExpanderCfg) (bl rs : Bool) : List Emission :=
  [.busWrite x.addr7 (x.portByte 0xF false true rs bl), .busWrite x.addr7 (x.portByte 0xF true true rs bl), .delay 1,
    .busRead x.addr7, .busWrite x.addr7 (x.portByte 0xF false true rs bl), .delay 37]

end Sys2Proof.Machine
end

