-- ==== Sys2Proof/Safety.lean ====
section
/-! DEFINITION. What counts as a legal state and a legal request, and what it means for an operation to have performed a list of
events: the terms the statements use. -/

namespace Sys2Proof

/-- The host operation an instruction is, none for a word the block emits. -/
def Instr.hostOp : Instr → Option HostOp
  | .clearDisplay => none
  | .returnHome => none
  | .entryModeSet _ _ => none
  | .displayControl _ _ _ => none
  | .cursorDisplayShift _ _ => none
  | .functionSet _ _ _ => none
  | .setCgramAddress _ => none
  | .setDdramAddress _ => none
  | .dataByte _ => none
  | .wake => none
  | .to4bit => none
  | .portWord _ _ _ _ => none
  | .begin _ _ _ => some .begin
  | .command _ => some .command
  | .writeData _ => some .writeData
  | .clear => some .clear
  | .home => some .home
  | .display => some .display
  | .noDisplay => some .noDisplay
  | .cursor => some .cursor
  | .noCursor => some .noCursor
  | .blink => some .blink
  | .noBlink => some .noBlink
  | .leftToRight => some .leftToRight
  | .rightToLeft => some .rightToLeft
  | .autoscroll => some .autoscroll
  | .noAutoscroll => some .noAutoscroll
  | .scrollDisplayLeft => some .scrollDisplayLeft
  | .scrollDisplayRight => some .scrollDisplayRight
  | .setCursor _ _ => some .setCursor
  | .createChar _ _ => some .createChar
  | .setBacklight _ => some .setBacklight
  | .write _ => some .write
  | .writeString _ => some .writeString
  | .getCharAt _ _ => some .getCharAt

/-- The operations `misuse` can stop: all but `begin` and `setBacklight` (spec/60_exceptions.md R182). -/
def HostOp.needsReady (op : HostOp) : Bool := decide (op ≠ .begin) && decide (op ≠ .setBacklight)

/-- Whether an instance of this configuration has the instruction: `getCharAt` needs a transport that reads (R100, R174), a port
word needs a port (R73, R74). -/
def Instr.existsOn (c : Config) (i : Instr) : Bool :=
  match i with
  | .getCharAt _ _ => c.canRead
  | .portWord _ _ _ _ => c.hasPort
  | _ => true

/-- Whether an instruction's row or slot is `outOfRange` on a display of `rows` rows (R180, R183). -/
def Instr.outOfRange (rows : Nat) (i : Instr) : Bool :=
  match i with
  | .setCursor _ row => Machine.rowOutOfRange rows row.toNat
  | .getCharAt _ row => Machine.rowOutOfRange rows row.toNat
  | .createChar slot _ => Machine.slotOutOfRange slot
  | _ => false

end Sys2Proof

namespace Sys2Proof.Machine

/-- The invariant of the state: a valid configuration (R203), every register in its legal values (R11 to R14, R21), the function
set the one its geometry gives (R121), `faultSeen` set whenever `opFail` is (R18), and neither ever set on a Gpio instance
(R18, D33). -/
structure State.Inv (s : State) : Prop where
  config : s.config.valid = true
  entryMode : s.entryMode ≤ 0x03
  displayControl : s.displayControl ≤ 0x07
  functionSet : s.functionSet = captureFunctionSet s.rows s.charSize
  cols : 1 ≤ s.cols ∧ s.cols ≤ 40
  rows : 1 ≤ s.rows ∧ s.rows ≤ 4
  failure : s.opFail = true → s.faultSeen = true
  gpio : s.config.hasPort = false → s.faultSeen = false

/-- The answers `given` were taken from those `listed`, first first, leaving `left`; once the list ran out, any answers follow
(R56; log 4). -/
def Consumes {α : Type} (listed left given : List α) : Prop :=
  given ++ left = listed ∨ (left = [] ∧ listed <+: given)

/-- From `s`, the events `evs` were performed inside an operation: they follow the trace, a failure among them is added to the
failure record (R18), their answers are the environment's next ones, and NOTHING ELSE of the state differs. -/
structure Performs (s t : State) (evs : List Event) : Prop where
  state : t = { s with
    trace := s.trace ++ evs
    env := t.env
    opFail := s.opFail || anyFailed evs
    faultSeen := s.faultSeen || anyFailed evs }
  writes : Consumes s.env.writeAnswers t.env.writeAnswers (writeAnswersOf evs)
  reads : Consumes s.env.readAnswers t.env.readAnswers (readAnswersOf evs)

/-- A whole host operation that passed its legality check performed `evs`: as `Performs`, `opFail` speaking of this operation
only (R18, D30). -/
def Completes (s t : State) (evs : List Event) : Prop := Performs (clearOpFail s) t evs

/-- A word the block emits, run from `s`, completes with exactly the emissions `es`: nothing else of the state differs. -/
def EmitsExactly (i : Instr) (s : State) (es : List Emission) : Prop :=
  ∃ t evs, exec i s = .next t ∧ Performs s t evs ∧ emissions evs = es

/-- A host operation run from `s` completes: the registers are those of `base` (`s` with the registers the operation writes), it
performs exactly the emissions `es`, hands `r` to the host, and nothing else of the state differs. -/
def RunsExactly (i : Instr) (s base : State) (r : Ret) (es : List Emission) : Prop :=
  ∃ t evs, exec i s = .next { t with ret := r } ∧ Completes base t evs ∧ emissions evs = es

/-- An instruction run from `s` raises an error of kind `k` (R180): it completes with a failed answer among its events, it stops
with the fault, or it completes with a row or slot out of range. -/
def Raises (i : Instr) (s : State) (k : ErrorKind) : Prop :=
  match k with
  | .transportFailure => ∃ t evs, exec i s = .next t ∧ t.trace = s.trace ++ evs ∧ anyFailed evs = true
  | .misuse => ∃ f, exec i s = .fault f ∧ f.kind = .misuse
  | .outOfRange => (∃ t, exec i s = .next t) ∧ i.outOfRange s.rows = true

/-- Before `begin` has succeeded the operation is the fault `Misuse(op)` (R182). -/
def MisusedBeforeBegin (i : Instr) (op : HostOp) : Prop :=
  ∀ s : State, s.phase = .uninitialized → exec i s = .fault (.misuse op)

/-- The events put exactly these strobes on the lines, from any lines with E low, E rising once for each, and leave E low (R95). -/
def Strobes (c : Config) (evs : List Event) (frames : List Strobe) : Prop :=
  ∀ l : Lines, l.e = false →
    strobes c.transport l (emissions evs) = frames ∧ risingEdges c.transport l (emissions evs) = frames.length
      ∧ (linesAfterAll c.transport l (emissions evs)).e = false

end Sys2Proof.Machine
end

