-- ==== Sys2Proof/Certificates/Slice0/Obligations.lean ====
section
/-! DEFINITION. The statements for the provers. Each says in its docstring which rule of spec/ it formalises. In all of them the
registers, flags, outputs and inputs an operation leaves unchanged are said by `Performs`, `Completes`, `EmitsExactly` or
`RunsExactly` (Sys2Proof/Safety.lean), which equate the whole next state; the block has no memory (R40). -/

open Sys2Proof Sys2Proof.Machine

/-! ## Reset and construction -/

/-- R27, R200, R201: what the spec gives the state after reset; the instance X27 is the model's choice (log 2). -/
def Obligations.ResetHoldsTheSpecsValues : Prop :=
  State.reset.phase = .uninitialized ∧ State.reset.backlight = false ∧ State.reset.opFail = false ∧
    State.reset.faultSeen = false ∧ State.reset.trace = [] ∧ construct x27Args = some State.reset

/-- R201: constructing an Expander emits nothing. -/
def Obligations.ExpanderConstructionEmitsNothing : Prop :=
  ∀ a s, construct a = some s → s.config.hasPort = true → s.trace = []

/-- R202: constructing a Gpio instance makes every configured pin an output, in order, then drives RS, RW, E low and the
backlight pin to its off level. -/
def Obligations.GpioConstructionSetsUpThePins : Prop :=
  ∀ (rs e d4 d5 d6 d7 : Nat) (rw bl : Option Nat) (pol : Polarity),
    ([rs] ++ rw.toList ++ [e, d4, d5, d6, d7] ++ bl.toList).Nodup →
    ∃ s, construct ⟨.gpio rs rw e [d4, d5, d6, d7] bl, pol, false⟩ = some s ∧
      s.trace = ([
        [.pinMode rs], rw.toList.map fun p => .pinMode p,
        [.pinMode e, .pinMode d4, .pinMode d5, .pinMode d6, .pinMode d7], bl.toList.map fun p => .pinMode p,
        [.pinWrite rs false], rw.toList.map fun p => .pinWrite p false, [.pinWrite e false],
        bl.toList.map fun p => .pinWrite p (decide (pol = .activeLow))] : List (List Event)).flatten

/-- R203, R20: exactly these configurations are refused. Of a Gpio instance R203 (b) names eight data pins alone; that every number
but four is refused is the model's reading of R20 ("this spec admits 4 only"), and that an Expander's `canRead` is an argument of
the constructor is the model's choice (log 19 both). -/
def Obligations.ConstructionRefusesInvalidConfigurations : Prop :=
  (∀ (a rs rw e bl d4 d5 d6 d7 : Nat) (canRead asked : Bool) (pol : Polarity),
    (construct ⟨.expander a rs rw e bl d4 d5 d6 d7 canRead, pol, asked⟩ = none ↔
      ¬(a ≤ 0x7F ∧ (∀ p ∈ [rs, rw, e, bl, d4, d5, d6, d7], p ≤ 7) ∧ [rs, rw, e, bl, d4, d5, d6, d7].Nodup ∧
        (asked = true → canRead = true)))) ∧
  (∀ (rs e : Nat) (rw bl : Option Nat) (pins : List Nat) (asked : Bool) (pol : Polarity),
    (construct ⟨.gpio rs rw e pins bl, pol, asked⟩ = none ↔
      ¬(pins.length = 4 ∧ ([rs] ++ rw.toList ++ [e] ++ pins ++ bl.toList).Nodup ∧ asked = false)))

/-- R27, R200, R203: every instance the constructor makes meets the invariant. -/
def Obligations.ConstructionMeetsTheInvariant : Prop :=
  ∀ a s, construct a = some s → s.Inv

/-- The invariant holds at reset. -/
def Obligations.ResetMeetsTheInvariant : Prop := State.reset.Inv

/-- R11 to R14, R18, R21: every step keeps the invariant, from any state that has it. -/
def Obligations.StepKeepsTheInvariant : Prop :=
  ∀ s t : State, s.Inv → step s = .next t → t.Inv

/-! ## Steps, decoding, encoding -/

/-- R59: a step consumes the oldest request and runs the instruction it decodes to. -/
def Obligations.StepRunsTheDecodedRequest : Prop :=
  ∀ (s : State) (r : Request) (rest : List Request) (i : Instr),
    s.requests = r :: rest → decode s.config s.backlight r = .ok i → step s = exec i { s with requests := rest }

/-- R200, R184: with nothing presented the block idles; a word that decodes to nothing is refused by name. Which bare
wire words decode to nothing is the model's choice (log 25). -/
def Obligations.StepIdlesOrRefuses : Prop :=
  (∀ s : State, s.requests = [] → step s = .next s) ∧
  ∀ (s : State) (r : Request) (rest : List Request) (e : DecodeError),
    s.requests = r :: rest → decode s.config s.backlight r = .error e → step s = .refused (.illTyped e)

/-- Log 8: presenting a word of the opcode table makes the next step run what the decoder reads from it, on every instance. -/
def Obligations.PresentedTableWordRuns : Prop :=
  ∀ (s : State) (nbits w : Nat) (i : Instr), decodeTableWord nbits w = some i → step (s.withFetchWord nbits w) = exec i s

/-- R60, R71: eight words written out from the spec's encodings, and one request, decode to what they stand for. The request's
selector is R79's; that its operands follow as the bytes 5 and 2 is the model's request layout (log 6), since the spec gives
none (N19). -/
def Obligations.WrittenOutWordsDecode : Prop :=
  ∀ (c : Config) (backlight : Bool),
    decode c backlight ⟨.cmd8, [0b00000001]⟩ = .ok .clearDisplay ∧
    decode c backlight ⟨.cmd8, [0b00000110]⟩ = .ok (.entryModeSet true false) ∧
    decode c backlight ⟨.cmd8, [0b00001101]⟩ = .ok (.displayControl true false true) ∧
    decode c backlight ⟨.cmd8, [0b00011100]⟩ = .ok (.cursorDisplayShift true true) ∧
    decode c backlight ⟨.cmd8, [0b00101000]⟩ = .ok (.functionSet false true false) ∧
    decode c backlight ⟨.cmd8, [0b01010000]⟩ = .ok (.setCgramAddress 0x10) ∧
    decode c backlight ⟨.cmd8, [0b10011001]⟩ = .ok (.setDdramAddress 0x19) ∧
    decode c backlight ⟨.nib4, [0b0011]⟩ = .ok .wake ∧
    decode c backlight ⟨.hostOp, [0b10001, 5, 2]⟩ = .ok (.setCursor 5 2)

/-- R60: a command byte is read by the match and mask columns of the catalogue, each row exactly the bytes it matches, its fields
the bits the catalogue gives them. That any other byte, as a bare word, is refused is the model's choice (log 25): R76 traps none
of them, and `command` sends each as given. -/
def Obligations.CatalogueReadsByMatchAndMask : Prop :=
  ∀ b : Byte,
    (decodeCmd8 b = .ok .clearDisplay ↔ b &&& 0xFF = 0x01) ∧
    (decodeCmd8 b = .ok .returnHome ↔ b &&& 0xFF = 0x02) ∧
    (decodeCmd8 b = .ok (.entryModeSet (b.getLsbD 1) (b.getLsbD 0)) ↔ b &&& 0xFC = 0x04) ∧
    (decodeCmd8 b = .ok (.displayControl (b.getLsbD 2) (b.getLsbD 1) (b.getLsbD 0)) ↔ b &&& 0xF8 = 0x08) ∧
    (decodeCmd8 b = .ok (.cursorDisplayShift (b.getLsbD 3) (b.getLsbD 2)) ↔ b &&& 0xF3 = 0x10) ∧
    (decodeCmd8 b = .ok (.functionSet (b.getLsbD 4) (b.getLsbD 3) (b.getLsbD 2)) ↔ b &&& 0xE3 = 0x20) ∧
    (decodeCmd8 b = .ok (.setCgramAddress (b.extractLsb' 0 6)) ↔ b &&& 0xC0 = 0x40) ∧
    (decodeCmd8 b = .ok (.setDdramAddress (b.extractLsb' 0 7)) ↔ b &&& 0x80 = 0x80) ∧
    (decodeCmd8 b = .error .notInCatalogue ↔
      b = 0x00 ∨ b = 0x03 ∨ (b &&& 0xF0 = 0x10 ∧ b &&& 0x03 ≠ 0) ∨ (b &&& 0xE0 = 0x20 ∧ b &&& 0x03 ≠ 0))

/-- R79: the selectors 0x00 to 0x16 name the operations in order; 0x17 to 0x1F are refused. That a request is a selector byte
followed by operand bytes, and so that the bytes 0x20 to 0xFF are selectors too and refused, is the model's choice (log 6). -/
def Obligations.SelectorsNameTheOperations : Prop :=
  ∀ (c : Config) (backlight : Bool) (args : List Byte),
    (∀ op : HostOp, decode c backlight ⟨.hostOp, op.selector :: args⟩ = decodeOperands op args) ∧
    (∀ sel : Byte, 0x17 ≤ sel → decode c backlight ⟨.hostOp, sel :: args⟩ = .error .unassignedSelector) ∧
    ([.begin, .command, .writeData, .clear, .home, .display, .noDisplay, .cursor, .noCursor, .blink, .noBlink, .leftToRight,
      .rightToLeft, .autoscroll, .noAutoscroll, .scrollDisplayLeft, .scrollDisplayRight, .setCursor, .createChar,
      .setBacklight, .write, .writeString, .getCharAt] : List HostOp).map (fun op => op.selector.toNat) = List.range 23

/-- R60 to R73, R79: encoding a well-formed instruction and decoding it gives the instruction back, every operand included; the
layout of a request's operands is the model's (log 6). -/
def Obligations.DecodeEncodeRoundTrip : Prop :=
  ∀ (c : Config) (backlight : Bool) (i : Instr), c.valid = true → i.wellFormed = true → i.existsOn c = true →
    decode c backlight (encode c backlight i) = .ok i

/-- R60 to R73, R79: whatever decodes is well-formed, and only its own encoding decodes to it, but for a `begin` whose `charSize`
is left out, which means 5x8 (R120, D19). -/
def Obligations.DecodedWordIsItsEncoding : Prop :=
  ∀ (c : Config) (backlight : Bool) (r : Request) (i : Instr), c.valid = true → decode c backlight r = .ok i →
    i.wellFormed = true ∧
    (encode c backlight i = r ∨
      ∃ x y : Byte, r = ⟨.hostOp, [0x00, x, y]⟩ ∧ encode c backlight i = ⟨.hostOp, [0x00, x, y, 0x00]⟩)

/-! ## Where instructions stop, and that they otherwise complete -/

/-- R182: `misuse` is exactly an operation other than `begin` and `setBacklight` while Uninitialized. -/
def Obligations.MisuseIsExactlyBeforeBegin : Prop :=
  (∀ (i : Instr) (op : HostOp) (s : State), i.hostOp = some op → op.needsReady = true → i.wellFormed = true →
    i.existsOn s.config = true → s.phase = .uninitialized → exec i s = .fault (.misuse op)) ∧
  ∀ (i : Instr) (s : State) (f : Fault), exec i s = .fault f →
    s.phase = .uninitialized ∧ ∃ op, i.hostOp = some op ∧ op.needsReady = true ∧ f = .misuse op

/-- R184, R186, R100: an instruction is refused exactly when it is not well-typed or the instance does not have it, whatever the
phase. -/
def Obligations.RefusedExactlyWhenIllTyped : Prop :=
  ∀ (i : Instr) (s : State), (∃ r, exec i s = .refused r) ↔ ¬(i.wellFormed = true ∧ i.existsOn s.config = true)

/-- R190, R57: every operation the instance has, well-typed and not misused, completes; events are only appended, the configuration
and the waiting requests are untouched. That the wire words, run as instructions of their own, complete in both phases is the
model's choice (log 9: no phase check); R190 and R57 speak of host operations only. -/
def Obligations.EveryLegalInstructionCompletes : Prop :=
  ∀ (i : Instr) (s : State), i.wellFormed = true → i.existsOn s.config = true →
    (s.phase = .ready ∨ ∀ op, i.hostOp = some op → op.needsReady = false) →
    ∃ t evs, exec i s = .next t ∧ t.trace = s.trace ++ evs ∧ t.config = s.config ∧ t.requests = s.requests

/-! ## The words the block emits -/

/-- R61 to R68: each command byte of the catalogue is sent with RS = 0, Clear display and Return home followed by 2 ms; nothing
but the failure record changes. -/
def Obligations.CatalogueBytesAreSent : Prop :=
  ∀ s : State,
    EmitsExactly .clearDisplay s (byteEmissions s.config s.backlight false 0x01 ++ [.delay 2000]) ∧
    EmitsExactly .returnHome s (byteEmissions s.config s.backlight false 0x02 ++ [.delay 2000]) ∧
    (∀ inc shift : Bool, EmitsExactly (.entryModeSet inc shift) s
      (byteEmissions s.config s.backlight false (0x04 ||| (if inc then 0x02 else 0) ||| (if shift then 0x01 else 0)))) ∧
    (∀ d cu bl : Bool, EmitsExactly (.displayControl d cu bl) s
      (byteEmissions s.config s.backlight false
        (0x08 ||| (if d then 0x04 else 0) ||| (if cu then 0x02 else 0) ||| (if bl then 0x01 else 0)))) ∧
    (∀ m r : Bool, EmitsExactly (.cursorDisplayShift m r) s
      (byteEmissions s.config s.backlight false (0x10 ||| (if m then 0x08 else 0) ||| (if r then 0x04 else 0)))) ∧
    (∀ w n f : Bool, EmitsExactly (.functionSet w n f) s
      (byteEmissions s.config s.backlight false
        (0x20 ||| (if w then 0x10 else 0) ||| (if n then 0x08 else 0) ||| (if f then 0x04 else 0)))) ∧
    (∀ a : BitVec 6, EmitsExactly (.setCgramAddress a) s
      (byteEmissions s.config s.backlight false (BitVec.ofNat 8 (0x40 + a.toNat)))) ∧
    (∀ a : BitVec 7, EmitsExactly (.setDdramAddress a) s
      (byteEmissions s.config s.backlight false (BitVec.ofNat 8 (0x80 + a.toNat))))

/-- R70, R71: a data byte is sent unchanged with RS = 1; WAKE and TO4BIT are one nibble with RS = 0. -/
def Obligations.DataByteAndWakeNibblesAreSent : Prop :=
  ∀ s : State,
    (∀ b : Byte, EmitsExactly (.dataByte b) s (byteEmissions s.config s.backlight true b)) ∧
    EmitsExactly .wake s (nibbleEmissions s.config s.backlight 0x3 false) ∧
    EmitsExactly .to4bit s (nibbleEmissions s.config s.backlight 0x2 false)

/-- R73: the port word has every field at its position, the backlight bit composed by the block; with the source's scenario-2
mapping it is `n << 4 | bl << 3 | e << 2 | rw << 1 | rs`. -/
def Obligations.PortWordCarriesItsFields : Prop :=
  (∀ (s : State) (x : ExpanderCfg) (n : Nibble) (e rw rs : Bool),
    s.config.transport = .expander x → s.config.valid = true →
    ∃ w : Byte, EmitsExactly (.portWord n e rw rs) s [.busWrite x.addr7 w] ∧
      w.getLsbD x.pRs = rs ∧ w.getLsbD x.pRw = rw ∧ w.getLsbD x.pE = e ∧
      w.getLsbD x.pBl = xor s.backlight (decide (s.config.polarity = .activeLow)) ∧
      w.getLsbD x.pD4 = n.getLsbD 0 ∧ w.getLsbD x.pD5 = n.getLsbD 1 ∧ w.getLsbD x.pD6 = n.getLsbD 2 ∧
      w.getLsbD x.pD7 = n.getLsbD 3) ∧
  (∀ (a : BitVec 7) (n : Nibble) (e rw rs bl : Bool),
    ExpanderCfg.portByte { addr7 := a, pRs := 0, pRw := 1, pE := 2, pBl := 3, pD4 := 4, pD5 := 5, pD6 := 6, pD7 := 7 } n e rw rs bl
      = n.setWidth 8 <<< 4 ||| (if bl then 1#8 else 0) <<< 3 ||| (if e then 1#8 else 0) <<< 2 ||| (if rw then 1#8 else 0) <<< 1
        ||| (if rs then 1#8 else 0)) ∧
  ∀ (s : State) (g : GpioCfg) (n : Nibble) (e rw rs : Bool),
    s.config.transport = .gpio g → exec (.portWord n e rw rs) s = .refused .noPort

/-! ## The transport -/

/-- R93: on the bus a nibble is three writes and two waits, all performed whatever the answers; the words differ in the E bit
alone, RW is low and the backlight bit is the line's level; the primitive fails when any write is not acknowledged and writes no
register. -/
def Obligations.NibbleOnTheBus : Prop :=
  ∀ (x : ExpanderCfg) (n : Nibble) (rs : Bool) (s : State), s.config.transport = .expander x → s.config.valid = true →
    ∃ (w0 : Byte) (r1 r2 r3 : Bool) (t : State),
      writeNibble n rs s = (!(r1 && r2 && r3), t) ∧
      t = { s with
        env := t.env
        trace := s.trace ++ [.busWrite x.addr7 w0 r1, .busWrite x.addr7 (w0 ||| 1#8 <<< x.pE.val) r2, .delay 1,
          .busWrite x.addr7 w0 r3, .delay 37] } ∧
      Consumes s.env.writeAnswers t.env.writeAnswers [r1, r2, r3] ∧
      w0.getLsbD x.pE = false ∧ w0.getLsbD x.pRw = false ∧ w0.getLsbD x.pRs = rs ∧
      w0.getLsbD x.pBl = xor s.backlight (decide (s.config.polarity = .activeLow)) ∧
      w0.getLsbD x.pD4 = n.getLsbD 0 ∧ w0.getLsbD x.pD5 = n.getLsbD 1 ∧ w0.getLsbD x.pD6 = n.getLsbD 2 ∧
      w0.getLsbD x.pD7 = n.getLsbD 3

/-- R94: on pins a nibble is one drive per line, RW only where configured, then E high and E low with their waits; it cannot fail
and writes nothing but the trace. -/
def Obligations.NibbleOnThePins : Prop :=
  ∀ (g : GpioCfg) (n : Nibble) (rs : Bool) (s : State), s.config.transport = .gpio g →
    writeNibble n rs s = (false, { s with
      trace := s.trace ++ [.pinWrite g.pinRs rs] ++ (g.pinRw.toList.map fun p => .pinWrite p false)
        ++ [.pinWrite g.pinD4 (n.getLsbD 0), .pinWrite g.pinD5 (n.getLsbD 1), .pinWrite g.pinD6 (n.getLsbD 2),
          .pinWrite g.pinD7 (n.getLsbD 3), .pinWrite g.pinE true, .delay 1, .pinWrite g.pinE false, .delay 37] })

/-- R95: the events `writeNibble` appends set its lines up with E low, raise E by one event, wait `T_EH`, lower E by one event,
wait `T_EL`; from before E rises until after it falls RS, RW, the data lines and the backlight hold; on an Expander each of the
three parts is one bus write. -/
def Obligations.StrobeHoldsItsLines : Prop :=
  ∀ (n : Nibble) (rs : Bool) (s : State), s.config.valid = true →
    ∃ (evs : List Event) (setup : List Emission) (high low : Emission),
      (writeNibble n rs s).2.trace = s.trace ++ evs ∧ (writeNibble n rs s).2.backlight = s.backlight ∧
      (writeNibble n rs s).2.config = s.config ∧
      emissions evs = setup ++ [high, .delay 1, low, .delay 37] ∧
      (s.config.hasPort = true → ∃ a w w', setup = [.busWrite a w] ∧ high = .busWrite a w' ∧ low = .busWrite a w) ∧
      ∀ l : Lines, l.e = false →
        ∃ held : Lines, held.e = false ∧ held.rs = rs ∧ held.rw = false ∧ held.nibble = n ∧
          (s.config.hasPort = true → held.bl = s.config.blLevel s.backlight) ∧ (s.config.hasPort = false → held.bl = l.bl) ∧
          linesAfterAll s.config.transport l setup = held ∧
          linesAfterAll s.config.transport l (setup ++ [high]) = { held with e := true } ∧
          linesAfterAll s.config.transport l (setup ++ [high, .delay 1, low]) = held ∧
          strobes s.config.transport l (emissions evs) = [⟨n, rs, false⟩] ∧
          risingEdges s.config.transport l (emissions evs) = 1

/-- R110, R72, R113: a byte is two strobes, high nibble first, RS as given and RW low; the second is sent whatever the first
answered; a failure of either is noted; nothing else changes; it waits 76 microseconds. -/
def Obligations.ByteIsTwoStrobes : Prop :=
  ∀ (b : Byte) (rs : Bool) (s : State), s.config.valid = true →
    ∃ evs, Performs s (send b rs s) evs ∧ emissions evs = byteEmissions s.config s.backlight rs b ∧
      Strobes s.config evs [⟨b.extractLsb' 4 4, rs, false⟩, ⟨b.extractLsb' 0 4, rs, false⟩] ∧
      totalWait (emissions evs) = 76 ∧ (s.config.hasPort = true → busWrites (emissions evs) = 6)

/-- R99: a read strobe writes the data lines and RW high, reads the port while E is high, and hands back the data bits of the byte
read when nothing failed; it writes no register. What the nibble is after a failure is left open (U8; log 18). -/
def Obligations.ReadStrobeOnTheBus : Prop :=
  ∀ (x : ExpanderCfg) (rs : Bool) (s : State), s.config.transport = .expander x → s.config.valid = true →
    ∃ (w0 : Byte) (r1 r2 r3 : Bool) (b : Option Byte) (t : State),
      (read4bits x rs s).state = t ∧ (read4bits x rs s).failed = !(r1 && r2 && r3 && b.isSome) ∧
      t = { s with
        env := t.env
        trace := s.trace ++ [.busWrite x.addr7 w0 r1, .busWrite x.addr7 (w0 ||| 1#8 <<< x.pE.val) r2, .delay 1,
          .busRead x.addr7 b, .busWrite x.addr7 w0 r3, .delay 37] } ∧
      w0.getLsbD x.pE = false ∧ w0.getLsbD x.pRw = true ∧ w0.getLsbD x.pRs = rs ∧
      w0.getLsbD x.pBl = xor s.backlight (decide (s.config.polarity = .activeLow)) ∧
      w0.getLsbD x.pD4 = true ∧ w0.getLsbD x.pD5 = true ∧ w0.getLsbD x.pD6 = true ∧ w0.getLsbD x.pD7 = true ∧
      ∀ v, (read4bits x rs s).failed = false → b = some v →
        (read4bits x rs s).nibble.getLsbD 0 = v.getLsbD x.pD4 ∧ (read4bits x rs s).nibble.getLsbD 1 = v.getLsbD x.pD5 ∧
        (read4bits x rs s).nibble.getLsbD 2 = v.getLsbD x.pD6 ∧ (read4bits x rs s).nibble.getLsbD 3 = v.getLsbD x.pD7

/-! ## The host operations -/

/-- R173, R96, R97: in both phases `setBacklight` writes the bit and flushes it, on an Expander by one word with every other bit
0, on a Gpio instance by the backlight pin where there is one. -/
def Obligations.SetBacklightFlushesTheLevel : Prop :=
  ∀ (on : Bool) (s : State),
    (∀ x, s.config.transport = .expander x →
      RunsExactly (.setBacklight on) s { s with backlight := on } .nothing
        [.busWrite x.addr7 (if xor on (decide (s.config.polarity = .activeLow)) then 1#8 <<< x.pBl.val else 0)]) ∧
    (∀ g, s.config.transport = .gpio g →
      RunsExactly (.setBacklight on) s { s with backlight := on } .nothing
        (g.pinBl.toList.map fun p => .pinWrite p (xor on (decide (s.config.polarity = .activeLow)))))

/-- R111: `command` sends any byte with RS = 0; it writes no shadow register and adds no wait, even for 0x01 and 0x02. -/
def Obligations.CommandSendsTheByteRaw : Prop :=
  ∀ b : Byte, MisusedBeforeBegin (.command b) .command ∧
    ∀ s : State, s.phase = .ready → RunsExactly (.command b) s s .nothing (byteEmissions s.config s.backlight false b)

/-- R112: `writeData` sends the byte with RS = 1, both nibbles whatever the answers, and returns 1, or 0 on a transport failure; on a
Gpio instance always 1. -/
def Obligations.WriteDataReturnsOneOrZero : Prop :=
  ∀ b : Byte, MisusedBeforeBegin (.writeData b) .writeData ∧
    ∀ s : State, s.phase = .ready → ∃ t evs,
      exec (.writeData b) s = .next { t with ret := .accepted (if anyFailed evs then 0 else 1) } ∧ Completes s t evs ∧
      emissions evs = byteEmissions s.config s.backlight true b ∧ (s.config.hasPort = false → anyFailed evs = false)

/-- R170: `write` is `writeData`. -/
def Obligations.WriteIsWriteData : Prop :=
  ∀ b : Byte, MisusedBeforeBegin (.write b) .write ∧
    ∀ s : State, s.phase = .ready → exec (.write b) s = exec (.writeData b) s ∧ ∃ t, exec (.write b) s = .next t

/-- R171: `writeString` sends every byte in order with RS = 1, a failed one not stopping it, and returns how many had all their
writes acknowledged. -/
def Obligations.WriteStringCountsAcceptedBytes : Prop :=
  ∀ bytes : List Byte, MisusedBeforeBegin (.writeString bytes) .writeString ∧
    ∀ s : State, s.phase = .ready → ∃ (t : State) (chunks : List (List Event)),
      exec (.writeString bytes) s = .next { t with ret := .accepted (chunks.countP fun evs => !anyFailed evs) } ∧
      Completes s t chunks.flatten ∧
      chunks.map emissions = bytes.map (byteEmissions s.config s.backlight true)

/-- R140, R141: `clear` and `home` send 0x01 and 0x02, then wait 2 ms, failed or not; no register is written. -/
def Obligations.ClearAndHomeWaitTwoMilliseconds : Prop :=
  (MisusedBeforeBegin .clear .clear ∧ ∀ s : State, s.phase = .ready →
    RunsExactly .clear s s .nothing (byteEmissions s.config s.backlight false 0x01 ++ [.delay 2000])) ∧
  (MisusedBeforeBegin .home .home ∧ ∀ s : State, s.phase = .ready →
    RunsExactly .home s s .nothing (byteEmissions s.config s.backlight false 0x02 ++ [.delay 2000]))

/-- R152, R153: the scroll operations send 0x18 and 0x1C and write no shadow. -/
def Obligations.ScrollsSendTheShiftCommand : Prop :=
  (MisusedBeforeBegin .scrollDisplayLeft .scrollDisplayLeft ∧ ∀ s : State, s.phase = .ready →
    RunsExactly .scrollDisplayLeft s s .nothing (byteEmissions s.config s.backlight false 0x18)) ∧
  (MisusedBeforeBegin .scrollDisplayRight .scrollDisplayRight ∧ ∀ s : State, s.phase = .ready →
    RunsExactly .scrollDisplayRight s s .nothing (byteEmissions s.config s.backlight false 0x1C))

/-- R142 to R147: each display-control setter changes its own flag of the shadow and sends `0x08 | displayControl` with the new
value, whether or not the flag changed and whether or not the send fails. -/
def Obligations.DisplaySettersUpdateThenSend : Prop :=
  ∀ p ∈ ([(.display, .display, 0x04, 0), (.noDisplay, .noDisplay, 0, 0x04), (.cursor, .cursor, 0x02, 0),
      (.noCursor, .noCursor, 0, 0x02), (.blink, .blink, 0x01, 0), (.noBlink, .noBlink, 0, 0x01)] :
      List (Instr × HostOp × Byte × Byte)),
    MisusedBeforeBegin p.1 p.2.1 ∧
    ∀ s : State, s.phase = .ready →
      RunsExactly p.1 s { s with displayControl := (s.displayControl ||| p.2.2.1) &&& ~~~p.2.2.2 } .nothing
        (byteEmissions s.config s.backlight false (0x08 ||| ((s.displayControl ||| p.2.2.1) &&& ~~~p.2.2.2)))

/-- R148 to R151: each entry-mode setter changes its own flag of the shadow and sends `0x04 | entryMode` with the new value. -/
def Obligations.EntrySettersUpdateThenSend : Prop :=
  ∀ p ∈ ([(.leftToRight, .leftToRight, 0x02, 0), (.rightToLeft, .rightToLeft, 0, 0x02), (.autoscroll, .autoscroll, 0x01, 0),
      (.noAutoscroll, .noAutoscroll, 0, 0x01)] : List (Instr × HostOp × Byte × Byte)),
    MisusedBeforeBegin p.1 p.2.1 ∧
    ∀ s : State, s.phase = .ready →
      RunsExactly p.1 s { s with entryMode := (s.entryMode ||| p.2.2.1) &&& ~~~p.2.2.2 } .nothing
        (byteEmissions s.config s.backlight false (0x04 ||| ((s.entryMode ||| p.2.2.1) &&& ~~~p.2.2.2)))

/-- R188, R16: calling a setter again, whatever the bus answered the first time, sends the same byte and leaves the shadows as
they are. -/
def Obligations.RepeatedSetterReconverges : Prop :=
  ∀ i ∈ ([.display, .noDisplay, .cursor, .noCursor, .blink, .noBlink, .leftToRight, .rightToLeft, .autoscroll,
      .noAutoscroll] : List Instr),
    ∀ s t : State, exec i s = .next t →
      ∃ u evs evs', exec i t = .next u ∧ t.trace = s.trace ++ evs ∧ u.trace = t.trace ++ evs' ∧
        emissions evs' = emissions evs ∧ u.displayControl = t.displayControl ∧ u.entryMode = t.entryMode

/-- R157: `noDisplay(); display()` leaves `displayControl | DC_DISPLAY`, the value before if the flag was set; so do the other two
pairs with their flags. -/
def Obligations.OffThenOnRestoresTheFlag : Prop :=
  ∀ p ∈ ([(.noDisplay, .display, 0x04), (.noCursor, .cursor, 0x02), (.noBlink, .blink, 0x01)] : List (Instr × Instr × Byte)),
    ∀ s : State, s.phase = .ready → ∃ t u, exec p.1 s = .next t ∧ exec p.2.1 t = .next u ∧
      u.displayControl = s.displayControl ||| p.2.2 ∧
      (s.displayControl &&& p.2.2 ≠ 0 → u.displayControl = s.displayControl)

/-- R154: `setCursor` sends `0x80 | ((col + ROWBASE[row']) & 0x7F)`, the row clamped to `rows - 1`, the column not clamped. -/
def Obligations.SetCursorAddressesTheCell : Prop :=
  ∀ col row : Byte, MisusedBeforeBegin (.setCursor col row) .setCursor ∧
    ∀ s : State, s.phase = .ready → 1 ≤ s.rows → s.rows ≤ 4 →
      RunsExactly (.setCursor col row) s s .nothing
        (byteEmissions s.config s.backlight false
          (0x80 ||| BitVec.ofNat 8 ((col.toNat + [0x00, 0x40, 0x14, 0x54].getD
            (if row.toNat ≥ s.rows then s.rows - 1 else row.toNat) 0) % 128)))

/-- R81, R183: the address is the natural sum modulo 128, also when first wrapped to 8 bits; a row past the last addresses the
last; `(slot & 7) << 3` is eight times the slot modulo 8. -/
def Obligations.AddressArithmetic : Prop :=
  (∀ (rows : Nat) (col row : Byte), (ddramAddress rows col row).toNat = (col.toNat + rowBase (clampRow rows row.toNat)) % 128 ∧
    (ddramAddress rows col row).toNat = (col.toNat + rowBase (clampRow rows row.toNat)) % 256 % 128) ∧
  (∀ (rows : Nat) (col row : Byte), 1 ≤ rows → rows ≤ 4 → row.toNat ≥ rows →
    ddramAddress rows col row = ddramAddress rows col (BitVec.ofNat 8 (rows - 1))) ∧
  ∀ slot : Byte, (cgramAddress slot).toNat = 8 * (slot.toNat % 8)

/-- R155: `createChar` sends `0x40 | ((slot & 7) << 3)`, then the eight rows unchanged; a glyph of other than eight rows is
refused in any phase (R184). -/
def Obligations.CreateCharSendsNineBytes : Prop :=
  ∀ (slot : Byte) (glyph : List Byte),
    (glyph.length = 8 → MisusedBeforeBegin (.createChar slot glyph) .createChar ∧
      ∀ s : State, s.phase = .ready →
        RunsExactly (.createChar slot glyph) s s .nothing
          (byteEmissions s.config s.backlight false (0x40 ||| ((slot &&& 0x07) <<< 3))
            ++ glyph.flatMap (byteEmissions s.config s.backlight true))) ∧
    (glyph.length ≠ 8 → ∀ s : State, exec (.createChar slot glyph) s = .refused (.illTyped .illTypedOperands))

/-- R174, R100: `getCharAt` sets the DDRAM address as `setCursor` does, then reads two nibbles with RS = 1, high first; it returns
the byte they make when nothing failed and `ok = 0` otherwise; on an instance that cannot read it is refused. -/
def Obligations.GetCharAtReadsTwoNibbles : Prop :=
  ∀ col row : Byte,
    (∀ s : State, s.config.canRead = false → exec (.getCharAt col row) s = .refused .readUnsupported) ∧
    (∀ s : State, s.config.canRead = true → s.phase = .uninitialized → exec (.getCharAt col row) s = .fault (.misuse .getCharAt)) ∧
    ∀ (s : State) (x : ExpanderCfg), s.config.transport = .expander x → s.config.readSupported = true → s.phase = .ready →
      1 ≤ s.rows → s.rows ≤ 4 →
      ∃ t evs r, exec (.getCharAt col row) s = .next { t with ret := r } ∧ Completes s t evs ∧
        emissions evs = byteEmissions s.config s.backlight false
            (0x80 ||| BitVec.ofNat 8 ((col.toNat + [0x00, 0x40, 0x14, 0x54].getD
              (if row.toNat ≥ s.rows then s.rows - 1 else row.toNat) 0) % 128))
          ++ readEmissions x s.blLevel true ++ readEmissions x s.blLevel true ∧
        (anyFailed evs = true → ∃ byte, r = .char false byte) ∧
        (anyFailed evs = false → ∃ b1 b2, readAnswersOf evs = [some b1, some b2] ∧
          r = .char true (x.nibbleAt b1 ++ x.nibbleAt b2))

/-! ## begin -/

/-- R121, R122, R123: `begin` from Uninitialized captures its operands, runs all ten steps whatever the answers, leaves the
shadows at the values of steps 6, 9 and 10, and becomes Ready and succeeds when and only when nothing failed, as on a Gpio instance
always. -/
def Obligations.BeginRunsTheTenSteps : Prop :=
  ∀ (cols rows : Nat) (cs : CharSize) (s : State), 1 ≤ cols → cols ≤ 40 → 1 ≤ rows → rows ≤ 4 → s.phase = .uninitialized →
    ∃ (fs : Byte) (t : State) (evs : List Event),
      fs = (if rows > 1 then 0x08 else 0) ||| (if cs = .dots5x10 then 0x04 else 0) ∧
      exec (.begin cols rows cs) s =
        .next { t with phase := if anyFailed evs then .uninitialized else .ready, ret := .status (!anyFailed evs) } ∧
      Completes { s with
        cols := cols, rows := rows, charSize := cs, functionSet := fs, displayControl := 0x04, entryMode := 0x02 } t evs ∧
      emissions evs = ([
        [.delay 40000],
        nibbleEmissions s.config s.backlight 0x3 false, [.delay 4500],
        nibbleEmissions s.config s.backlight 0x3 false, [.delay 150],
        nibbleEmissions s.config s.backlight 0x3 false, [.delay 150],
        nibbleEmissions s.config s.backlight 0x2 false, [.delay 150],
        byteEmissions s.config s.backlight false (0x20 ||| fs),
        byteEmissions s.config s.backlight false 0x08,
        byteEmissions s.config s.backlight false 0x01, [.delay 2000],
        byteEmissions s.config s.backlight false 0x06,
        byteEmissions s.config s.backlight false 0x0C] : List (List Emission)).flatten ∧
      (s.config.hasPort = false → anyFailed evs = false)

/-- R125, R126: the handshake on the lines: the nibbles 3 3 3 2, then the bytes of steps 6 to 10, fourteen strobes with RS = 0 and
RW = 0, 47482 microseconds of waits; on an Expander 42 bus writes, all carrying the same backlight bit. -/
def Obligations.HandshakeOnTheLines : Prop :=
  ∀ (cols rows : Nat) (cs : CharSize) (s : State), 1 ≤ cols → cols ≤ 40 → 1 ≤ rows → rows ≤ 4 → s.phase = .uninitialized →
    s.config.valid = true →
    ∃ t evs, exec (.begin cols rows cs) s = .next t ∧ t.trace = s.trace ++ evs ∧
      Strobes s.config evs (([0x3, 0x3, 0x3, 0x2, 0x2,
        (if rows > 1 then 0x8 else 0) ||| (if cs = .dots5x10 then 0x4 else 0),
        0x0, 0x8, 0x0, 0x1, 0x0, 0x6, 0x0, 0xC] : List Nibble).map fun n => ⟨n, false, false⟩) ∧
      totalWait (emissions evs) = 47482 ∧
      ∀ x, s.config.transport = .expander x →
        busWrites (emissions evs) = 42 ∧
        ∀ a w ack, Event.busWrite a w ack ∈ evs → w.getLsbD x.pBl = s.config.blLevel s.backlight

/-- R120, R184: `begin` in Ready returns failure at once, nothing emitted and no register written, `opFail` included; ill-typed
operands are refused in any phase. -/
def Obligations.BeginInReadyFailsAtOnce : Prop :=
  ∀ (cols rows : Nat) (cs : CharSize) (s : State),
    (1 ≤ cols → cols ≤ 40 → 1 ≤ rows → rows ≤ 4 → s.phase = .ready →
      exec (.begin cols rows cs) s = .next { s with ret := .status false }) ∧
    (cols = 0 ∨ 40 < cols ∨ rows = 0 ∨ 4 < rows → exec (.begin cols rows cs) s = .refused (.illTyped .illTypedOperands))

/-- R124: presented with a legal `begin` in `I0` and then with nothing, the state machine runs twelve transitions and ends where
`begin` does, the value returned included: idle in Ready when it succeeded and back in `I0` when it failed. With nothing presented
it stays idle in `I0` and in Ready with nothing changed, so a failed run does not restart by itself. An ill-typed `begin` is
refused in both (R184). That any other instruction in `I0`, and any instruction in idle Ready, is one transition ending as `exec`
ends it is the model's choice (log 12), which R7, R22 and D1 offer: R124 gives `I0` no action but on `begin`, and R22 gives
`createChar` positions of its own. -/
def Obligations.HandshakeMachineIsBegin : Prop :=
  (∀ (cols rows : Nat) (cs : CharSize) (s : State), 1 ≤ cols → cols ≤ 40 → 1 ≤ rows → rows ≤ 4 → s.phase = .uninitialized →
    ∃ t, exec (.begin cols rows cs) s = .next t ∧
      seqRun (some (.begin cols rows cs) :: List.replicate 11 none) (.i0, s) =
        .next (if t.ret = .status true then .readyIdle else .i0, t)) ∧
  (∀ s : State, seqStep none (.i0, s) = .next (.i0, s) ∧ seqStep none (.readyIdle, s) = .next (.readyIdle, s)) ∧
  (∀ (cols rows : Nat) (cs : CharSize) (s : State), cols = 0 ∨ 40 < cols ∨ rows = 0 ∨ 4 < rows →
    seqStep (some (.begin cols rows cs)) (.i0, s) = .refused (.illTyped .illTypedOperands) ∧
    seqStep (some (.begin cols rows cs)) (.readyIdle, s) = .refused (.illTyped .illTypedOperands)) ∧
  ∀ (i : Instr) (p : SeqState) (s : State), (p = .i0 ∧ i.hostOp ≠ some .begin) ∨ p = .readyIdle →
    (∀ t, exec i s = .next t → seqStep (some i) (p, s) = .next (p, t)) ∧
    (∀ f, exec i s = .fault f → seqStep (some i) (p, s) = .fault f) ∧
    (∀ r, exec i s = .refused r → seqStep (some i) (p, s) = .refused r)

/-! ## Rules over the whole machine -/

/-- R17, R190: nothing leaves Ready; Ready is entered by a `begin` without a transport failure and by nothing else. -/
def Obligations.OnlyASuccessfulBeginMakesReady : Prop :=
  ∀ (i : Instr) (s t : State), exec i s = .next t →
    (s.phase = .ready → t.phase = .ready) ∧
    (s.phase = .uninitialized →
      ((∃ cols rows cs, i = .begin cols rows cs) ∧ t.opFail = false ↔ t.phase = .ready) ∧ (t.phase = .ready → t.ret = .status true))

/-- R11 to R15, R21: each register is written only by the operations its rule names; no operation of Ready writes the function set
or the geometry. -/
def Obligations.RegistersAreWrittenOnlyByTheirOperations : Prop :=
  ∀ (i : Instr) (s t : State), exec i s = .next t →
    (t.backlight ≠ s.backlight → i.hostOp = some .setBacklight) ∧
    (t.entryMode ≠ s.entryMode → i.hostOp ∈ [some HostOp.begin, some .leftToRight, some .rightToLeft, some .autoscroll, some .noAutoscroll]) ∧
    (t.displayControl ≠ s.displayControl →
      i.hostOp ∈ [some HostOp.begin, some .display, some .noDisplay, some .cursor, some .noCursor, some .blink, some .noBlink]) ∧
    (t.functionSet ≠ s.functionSet ∨ t.cols ≠ s.cols ∨ t.rows ≠ s.rows ∨ t.charSize ≠ s.charSize →
      i.hostOp = some .begin ∧ s.phase = .uninitialized)

/-- R18, R23, D33: after an operation that passed its check `opFail` says whether one of ITS answers failed, `faultSeen` whether
any ever did; a word of its own adds to `opFail`; a Gpio instance has no failure. -/
def Obligations.FailureRecordFollowsTheAnswers : Prop :=
  ∀ (i : Instr) (s t : State), exec i s = .next t →
    ∃ evs, t.trace = s.trace ++ evs ∧ t.faultSeen = (s.faultSeen || anyFailed evs) ∧
      (i.hostOp = none → t.opFail = (s.opFail || anyFailed evs)) ∧
      (i.hostOp ≠ none → ¬(i.hostOp = some .begin ∧ s.phase = .ready) → t.opFail = anyFailed evs) ∧
      (i.hostOp = some .begin ∧ s.phase = .ready → t.opFail = s.opFail ∧ evs = []) ∧
      (s.config.hasPort = false → anyFailed evs = false)

/-- R22, R56: what the environment answers decides nothing the block emits, no shadow, geometry or backlight, and no phase but
through `begin`. -/
def Obligations.AnswersDoNotSteerTheBlock : Prop :=
  ∀ (i : Instr) (s : State) (e : Env) (t : State), exec i s = .next t →
    ∃ u v w, exec i { s with env := e } = .next u ∧ t.trace = s.trace ++ v ∧ u.trace = s.trace ++ w ∧
      emissions w = emissions v ∧ u.entryMode = t.entryMode ∧ u.displayControl = t.displayControl ∧
      u.functionSet = t.functionSet ∧ u.cols = t.cols ∧ u.rows = t.rows ∧ u.charSize = t.charSize ∧
      u.backlight = t.backlight ∧ u.config = t.config ∧ u.requests = t.requests ∧
      (i.hostOp ≠ some .begin → u.phase = t.phase)

/-- R27: while Uninitialized nothing reads the six registers the spec gives no reset value: with other values in them an
instruction emits the same, returns the same and leaves the same everywhere else, and after `begin` they hold the same too. So
no claim about a run from reset depends on the values log 3 names. -/
def Obligations.UncapturedRegistersAreNeverRead : Prop :=
  ∀ (i : Instr) (s : State) (em dc fs : Byte) (co ro : Nat) (cs : CharSize) (t : State),
    s.phase = .uninitialized → exec i s = .next t →
    ∃ u, exec i { s with entryMode := em, displayControl := dc, functionSet := fs, cols := co, rows := ro, charSize := cs } = .next u ∧
      (i.hostOp = some .begin → u = t) ∧
      (i.hostOp ≠ some .begin →
        u = { t with entryMode := em, displayControl := dc, functionSet := fs, cols := co, rows := ro, charSize := cs })

/-- R217: every bus write of every instruction but `setBacklight` carries the backlight line's level. -/
def Obligations.BacklightRidesOnEveryWrite : Prop :=
  ∀ (i : Instr) (s t : State) (x : ExpanderCfg), s.config.transport = .expander x → s.config.valid = true →
    i.hostOp ≠ some .setBacklight → exec i s = .next t →
    ∃ evs, t.trace = s.trace ++ evs ∧ t.backlight = s.backlight ∧
      ∀ a w ack, Event.busWrite a w ack ∈ evs → w.getLsbD x.pBl = s.config.blLevel s.backlight

/-- R40, R43, R44: an Expander instance touches the bus at its one address and no pin; a Gpio instance touches configured pins and
no bus; after construction no pin mode is set. -/
def Obligations.InstanceTouchesOnlyItsTransport : Prop :=
  ∀ (i : Instr) (s t : State), exec i s = .next t →
    ∃ evs, t.trace = s.trace ++ evs ∧
      (∀ x, s.config.transport = .expander x → ∀ e ∈ emissions evs,
        (∃ us, e = .delay us) ∨ (∃ w, e = .busWrite x.addr7 w) ∨ e = .busRead x.addr7) ∧
      (∀ g, s.config.transport = .gpio g → ∀ e ∈ emissions evs,
        (∃ us, e = .delay us) ∨ ∃ p ∈ gpioPins g, ∃ v, e = .pinWrite p v)

/-- R8, R113: what every host operation but `begin`, `command` and `getCharAt` puts on the lines is a sequence of whole bytes, two
strobes each, every command byte among them one of the catalogue; E is left low. -/
def Obligations.NamedOperationsSendCatalogueBytes : Prop :=
  ∀ (i : Instr) (s t : State), s.phase = .ready → s.config.valid = true → i.hostOp ≠ none →
    i.hostOp ∉ [some HostOp.begin, some .command, some .getCharAt] → s.entryMode ≤ 0x03 → s.displayControl ≤ 0x07 →
    exec i s = .next t →
    ∃ (evs : List Event) (bytes : List (Bool × Byte)), t.trace = s.trace ++ evs ∧
      Strobes s.config evs (bytes.flatMap fun p => [⟨p.2.extractLsb' 4 4, p.1, false⟩, ⟨p.2.extractLsb' 0 4, p.1, false⟩]) ∧
      ∀ p ∈ bytes, p.1 = false → ∃ j, decodeCmd8 p.2 = .ok j

/-- R113: `getCharAt` makes two write strobes and then two read strobes with RS = 1 and the data lines high. -/
def Obligations.GetCharAtMakesFourStrobes : Prop :=
  ∀ (col row : Byte) (s t : State), s.phase = .ready → s.config.valid = true → exec (.getCharAt col row) s = .next t →
    ∃ evs b, t.trace = s.trace ++ evs ∧ (∃ j, decodeCmd8 b = .ok (.setDdramAddress j)) ∧
      Strobes s.config evs [⟨b.extractLsb' 4 4, false, false⟩, ⟨b.extractLsb' 0 4, false, false⟩, ⟨0xF, true, true⟩, ⟨0xF, true, true⟩]

/-- R24: after an acknowledged bus write the expander's latch holds the word written, one not acknowledged leaves it; after a pin is
driven it holds that level and every other pin what it held. -/
def Obligations.LatchFollowsAcknowledgedWrites : Prop :=
  (∀ (a : BitVec 7) (w : Byte) (s : State),
    ((busWrite a w s).1 = false → latch (busWrite a w s).2.trace = some w) ∧
    ((busWrite a w s).1 = true → latch (busWrite a w s).2.trace = latch s.trace)) ∧
  ∀ (p q : Nat) (v : Bool) (s : State),
    pinLevel p (emit (.pinWrite p v) s).trace = some v ∧
    (q ≠ p → pinLevel q (emit (.pinWrite p v) s).trace = pinLevel q s.trace)

/-! ## Error kinds and concurrent entry -/

/-- R180, R181, R182: who raises `misuse` and `transportFailure`, what is recorded and how the host sees it. A host operation
raises `misuse` exactly when it needs Ready, is well-typed, exists on the instance, and the phase is Uninitialized. One that
completes raises `transportFailure` only on an Expander, records it in `opFail` and `faultSeen`, and returns: `begin` from
Uninitialized failure, `writeData` and `write` 0, `writeString` a smaller count, `getCharAt` ok = 0, every other operation
nothing. -/
def Obligations.ErrorKindsSurfaceAsTabled : Prop :=
  ∀ (i : Instr) (op : HostOp) (s : State), i.hostOp = some op →
    (Raises i s .misuse ↔
      op.needsReady = true ∧ i.wellFormed = true ∧ i.existsOn s.config = true ∧ s.phase = .uninitialized) ∧
    ∀ t, exec i s = .next t →
      ∃ evs, t.trace = s.trace ++ evs ∧ (Raises i s .transportFailure ↔ anyFailed evs = true) ∧
        (anyFailed evs = true → s.config.hasPort = true ∧ t.opFail = true ∧ t.faultSeen = true) ∧
        (op = .begin → s.phase = .uninitialized → t.ret = .status (!anyFailed evs)) ∧
        (op = .begin → s.phase = .ready → t.ret = .status false ∧ evs = []) ∧
        (op = .writeData ∨ op = .write → t.ret = .accepted (if anyFailed evs then 0 else 1)) ∧
        (∀ bytes, i = .writeString bytes →
          ∃ n, t.ret = .accepted n ∧ n ≤ bytes.length ∧ (anyFailed evs = true ↔ n < bytes.length)) ∧
        (op = .getCharAt → ∃ b, t.ret = .char (!anyFailed evs) b) ∧
        (op ∉ [HostOp.begin, .writeData, .write, .writeString, .getCharAt] → t.ret = .nothing)

/-- R180, R183: `outOfRange` is raised by `setCursor`, `getCharAt` and `createChar` alone, on a row past the last or a slot of 8 or
more, and leaves no mark: the operation is in every respect the one with the row clamped to the last, the slot masked to three
bits. A column is never out of range: with a row in range nothing is raised, whatever the column. -/
def Obligations.OutOfRangeLeavesNoMark : Prop :=
  (∀ (i : Instr) (s : State), Raises i s .outOfRange →
    (∃ col row, (i = .setCursor col row ∨ i = .getCharAt col row) ∧ s.rows ≤ row.toNat) ∨
      ∃ slot glyph, i = .createChar slot glyph ∧ 8 ≤ slot.toNat) ∧
  (∀ (col row : Byte) (s : State), s.phase = .ready →
    (Raises (.setCursor col row) s .outOfRange ↔ s.rows ≤ row.toNat) ∧
    (s.config.canRead = true → (Raises (.getCharAt col row) s .outOfRange ↔ s.rows ≤ row.toNat))) ∧
  (∀ (slot : Byte) (glyph : List Byte) (s : State), s.phase = .ready → glyph.length = 8 →
    (Raises (.createChar slot glyph) s .outOfRange ↔ 8 ≤ slot.toNat)) ∧
  (∀ (col row : Byte) (s : State), 1 ≤ s.rows → s.rows ≤ 4 → s.rows ≤ row.toNat →
    exec (.setCursor col row) s = exec (.setCursor col (BitVec.ofNat 8 (s.rows - 1))) s ∧
    exec (.getCharAt col row) s = exec (.getCharAt col (BitVec.ofNat 8 (s.rows - 1))) s) ∧
  ∀ (slot : Byte) (glyph : List Byte) (s : State),
    exec (.createChar slot glyph) s = exec (.createChar (slot &&& 0x07) glyph) s

/-- R184, R194: once a `begin` is in progress in the machine of R124, an instruction presented before it is done is refused, however
many of the steps have run and whatever follows; so nothing is said of a run with concurrent entry. -/
def Obligations.ConcurrentEntryIsRefused : Prop :=
  ∀ (cols rows k : Nat) (cs : CharSize) (s : State) (i : Instr) (rest : List (Option Instr)),
    1 ≤ cols → cols ≤ 40 → 1 ≤ rows → rows ≤ 4 → s.phase = .uninitialized → k ≤ 10 →
    seqRun (some (.begin cols rows cs) :: (List.replicate k none ++ some i :: rest)) (.i0, s) = .refused .concurrentEntry
end

