-- ==== Sys2Proof/Laws/State.lean ====
section
/-! SUPPORT. What each update of the state leaves in each field, so that no later proof unfolds a record update. -/

namespace Sys2Proof.Machine

@[simp] theorem emit_phase (e : Event) (s : State) : (emit e s).phase = s.phase := rfl
@[simp] theorem emit_entryMode (e : Event) (s : State) : (emit e s).entryMode = s.entryMode := rfl
@[simp] theorem emit_displayControl (e : Event) (s : State) : (emit e s).displayControl = s.displayControl := rfl
@[simp] theorem emit_functionSet (e : Event) (s : State) : (emit e s).functionSet = s.functionSet := rfl
@[simp] theorem emit_cols (e : Event) (s : State) : (emit e s).cols = s.cols := rfl
@[simp] theorem emit_rows (e : Event) (s : State) : (emit e s).rows = s.rows := rfl
@[simp] theorem emit_charSize (e : Event) (s : State) : (emit e s).charSize = s.charSize := rfl
@[simp] theorem emit_backlight (e : Event) (s : State) : (emit e s).backlight = s.backlight := rfl
@[simp] theorem emit_opFail (e : Event) (s : State) : (emit e s).opFail = s.opFail := rfl
@[simp] theorem emit_faultSeen (e : Event) (s : State) : (emit e s).faultSeen = s.faultSeen := rfl
@[simp] theorem emit_config (e : Event) (s : State) : (emit e s).config = s.config := rfl
@[simp] theorem emit_requests (e : Event) (s : State) : (emit e s).requests = s.requests := rfl
@[simp] theorem emit_env (e : Event) (s : State) : (emit e s).env = s.env := rfl
@[simp] theorem emit_trace (e : Event) (s : State) : (emit e s).trace = s.trace ++ [e] := rfl
@[simp] theorem emit_ret (e : Event) (s : State) : (emit e s).ret = s.ret := rfl

@[simp] theorem wait_phase (us : Nat) (s : State) : (wait us s).phase = s.phase := rfl
@[simp] theorem wait_entryMode (us : Nat) (s : State) : (wait us s).entryMode = s.entryMode := rfl
@[simp] theorem wait_displayControl (us : Nat) (s : State) : (wait us s).displayControl = s.displayControl := rfl
@[simp] theorem wait_functionSet (us : Nat) (s : State) : (wait us s).functionSet = s.functionSet := rfl
@[simp] theorem wait_cols (us : Nat) (s : State) : (wait us s).cols = s.cols := rfl
@[simp] theorem wait_rows (us : Nat) (s : State) : (wait us s).rows = s.rows := rfl
@[simp] theorem wait_charSize (us : Nat) (s : State) : (wait us s).charSize = s.charSize := rfl
@[simp] theorem wait_backlight (us : Nat) (s : State) : (wait us s).backlight = s.backlight := rfl
@[simp] theorem wait_opFail (us : Nat) (s : State) : (wait us s).opFail = s.opFail := rfl
@[simp] theorem wait_faultSeen (us : Nat) (s : State) : (wait us s).faultSeen = s.faultSeen := rfl
@[simp] theorem wait_config (us : Nat) (s : State) : (wait us s).config = s.config := rfl
@[simp] theorem wait_requests (us : Nat) (s : State) : (wait us s).requests = s.requests := rfl
@[simp] theorem wait_env (us : Nat) (s : State) : (wait us s).env = s.env := rfl
@[simp] theorem wait_trace (us : Nat) (s : State) : (wait us s).trace = s.trace ++ [.delay us] := rfl
@[simp] theorem wait_ret (us : Nat) (s : State) : (wait us s).ret = s.ret := rfl

@[simp] theorem clearOpFail_phase (s : State) : (clearOpFail s).phase = s.phase := rfl
@[simp] theorem clearOpFail_entryMode (s : State) : (clearOpFail s).entryMode = s.entryMode := rfl
@[simp] theorem clearOpFail_displayControl (s : State) : (clearOpFail s).displayControl = s.displayControl := rfl
@[simp] theorem clearOpFail_functionSet (s : State) : (clearOpFail s).functionSet = s.functionSet := rfl
@[simp] theorem clearOpFail_cols (s : State) : (clearOpFail s).cols = s.cols := rfl
@[simp] theorem clearOpFail_rows (s : State) : (clearOpFail s).rows = s.rows := rfl
@[simp] theorem clearOpFail_charSize (s : State) : (clearOpFail s).charSize = s.charSize := rfl
@[simp] theorem clearOpFail_backlight (s : State) : (clearOpFail s).backlight = s.backlight := rfl
@[simp] theorem clearOpFail_opFail (s : State) : (clearOpFail s).opFail = false := rfl
@[simp] theorem clearOpFail_faultSeen (s : State) : (clearOpFail s).faultSeen = s.faultSeen := rfl
@[simp] theorem clearOpFail_config (s : State) : (clearOpFail s).config = s.config := rfl
@[simp] theorem clearOpFail_requests (s : State) : (clearOpFail s).requests = s.requests := rfl
@[simp] theorem clearOpFail_env (s : State) : (clearOpFail s).env = s.env := rfl
@[simp] theorem clearOpFail_trace (s : State) : (clearOpFail s).trace = s.trace := rfl
@[simp] theorem clearOpFail_ret (s : State) : (clearOpFail s).ret = s.ret := rfl

/-- Of the three error kinds only a transport failure records anything (R180). -/
@[simp] theorem recordError_misuse (raised : Bool) (s : State) : recordError .misuse raised s = s := rfl
@[simp] theorem recordError_outOfRange (raised : Bool) (s : State) : recordError .outOfRange raised s = s := rfl
@[simp] theorem recordError_transportFailure (raised : Bool) (s : State) :
    recordError .transportFailure raised s = noteFailure raised s := rfl

@[simp] theorem noteFailure_phase (f : Bool) (s : State) : (noteFailure f s).phase = s.phase := rfl
@[simp] theorem noteFailure_entryMode (f : Bool) (s : State) : (noteFailure f s).entryMode = s.entryMode := rfl
@[simp] theorem noteFailure_displayControl (f : Bool) (s : State) : (noteFailure f s).displayControl = s.displayControl := rfl
@[simp] theorem noteFailure_functionSet (f : Bool) (s : State) : (noteFailure f s).functionSet = s.functionSet := rfl
@[simp] theorem noteFailure_cols (f : Bool) (s : State) : (noteFailure f s).cols = s.cols := rfl
@[simp] theorem noteFailure_rows (f : Bool) (s : State) : (noteFailure f s).rows = s.rows := rfl
@[simp] theorem noteFailure_charSize (f : Bool) (s : State) : (noteFailure f s).charSize = s.charSize := rfl
@[simp] theorem noteFailure_backlight (f : Bool) (s : State) : (noteFailure f s).backlight = s.backlight := rfl
@[simp] theorem noteFailure_opFail (f : Bool) (s : State) : (noteFailure f s).opFail = (s.opFail || f) := rfl
@[simp] theorem noteFailure_faultSeen (f : Bool) (s : State) : (noteFailure f s).faultSeen = (s.faultSeen || f) := rfl
@[simp] theorem noteFailure_config (f : Bool) (s : State) : (noteFailure f s).config = s.config := rfl
@[simp] theorem noteFailure_requests (f : Bool) (s : State) : (noteFailure f s).requests = s.requests := rfl
@[simp] theorem noteFailure_env (f : Bool) (s : State) : (noteFailure f s).env = s.env := rfl
@[simp] theorem noteFailure_trace (f : Bool) (s : State) : (noteFailure f s).trace = s.trace := rfl
@[simp] theorem noteFailure_ret (f : Bool) (s : State) : (noteFailure f s).ret = s.ret := rfl

end Sys2Proof.Machine
end

