-- ==== Sys2Proof/Laws/Ops.lean ====
section
/-! SUPPORT. One lemma per shared operation saying once everything it can do: which events it performs, whether it reports a
failure, and that nothing else of the state differs. -/

namespace Sys2Proof.Machine

/-! ## Answers -/

theorem Consumes.none {α : Type} (l : List α) : Consumes l l [] := .inl rfl

theorem Consumes.append {α : Type} {a b c g h : List α} (h1 : Consumes a b g) (h2 : Consumes b c h) :
    Consumes a c (g ++ h) := by
  rcases h1 with rfl | ⟨rfl, h1⟩
  · rcases h2 with rfl | ⟨rfl, h2⟩
    · exact .inl (by simp)
    · exact .inr ⟨rfl, by simpa using h2⟩
  · rcases h2 with h2 | ⟨rfl, -⟩
    · obtain ⟨rfl, rfl⟩ := List.append_eq_nil_iff.1 h2
      exact .inr ⟨rfl, by simpa using h1⟩
    · exact .inr ⟨rfl, h1.trans (List.prefix_append _ _)⟩

/-- One answer taken from a list, a free one where it is empty. -/
theorem Consumes.one {α : Type} {l : List α} {a : α} {rest : List α} (h : l = a :: rest) : Consumes l rest [a] :=
  .inl (by simp [h])

theorem takeWrite_consumes (e : Env) :
    Consumes e.writeAnswers e.takeWrite.2.writeAnswers [e.takeWrite.1] ∧ e.takeWrite.2.readAnswers = e.readAnswers := by
  unfold Env.takeWrite
  split
  · next h => exact ⟨.one h, rfl⟩
  · next h => exact ⟨.inr (by simp [h]), rfl⟩

theorem takeRead_consumes (e : Env) :
    Consumes e.readAnswers e.takeRead.2.readAnswers [e.takeRead.1] ∧ e.takeRead.2.writeAnswers = e.writeAnswers := by
  unfold Env.takeRead
  split
  · next h => exact ⟨.one h, rfl⟩
  · next h => exact ⟨.inr (by simp [h]), rfl⟩

/-! ## Readings of a list of events -/

@[simp] theorem emissions_nil : emissions [] = [] := rfl
@[simp] theorem emissions_append (a b : List Event) : emissions (a ++ b) = emissions a ++ emissions b := by simp [emissions]
@[simp] theorem emissions_cons (e : Event) (a : List Event) : emissions (e :: a) = e.emission :: emissions a := rfl
@[simp] theorem anyFailed_nil : anyFailed [] = false := rfl
@[simp] theorem anyFailed_append (a b : List Event) : anyFailed (a ++ b) = (anyFailed a || anyFailed b) := by simp [anyFailed]
@[simp] theorem anyFailed_cons (e : Event) (a : List Event) : anyFailed (e :: a) = (e.failed || anyFailed a) := rfl
@[simp] theorem totalWait_nil : totalWait [] = 0 := rfl
@[simp] theorem totalWait_append (a b : List Emission) : totalWait (a ++ b) = totalWait a + totalWait b := by simp [totalWait]
@[simp] theorem totalWait_cons (e : Emission) (a : List Emission) : totalWait (e :: a) = e.waits + totalWait a := by
  simp [totalWait]
@[simp] theorem busWrites_append (a b : List Emission) : busWrites (a ++ b) = busWrites a + busWrites b := by
  simp [busWrites]

@[simp] theorem writeAnswersOf_append (a b : List Event) : writeAnswersOf (a ++ b) = writeAnswersOf a ++ writeAnswersOf b := by
  simp [writeAnswersOf]
@[simp] theorem readAnswersOf_append (a b : List Event) : readAnswersOf (a ++ b) = readAnswersOf a ++ readAnswersOf b := by
  simp [readAnswersOf]

/-! ## Events emitted, the failure not yet noted -/

/-- From `s` the events `evs` were emitted, their answers being the environment's next ones; nothing else differs. -/
structure Emits (s t : State) (evs : List Event) : Prop where
  state : t = { s with trace := s.trace ++ evs, env := t.env }
  writes : Consumes s.env.writeAnswers t.env.writeAnswers (writeAnswersOf evs)
  reads : Consumes s.env.readAnswers t.env.readAnswers (readAnswersOf evs)

theorem Emits.refl (s : State) : Emits s s [] := ⟨by simp, .none _, .none _⟩

theorem Emits.trans {s t u : State} {a b : List Event} (h1 : Emits s t a) (h2 : Emits t u b) : Emits s u (a ++ b) where
  state := by
    rw [h2.state, h1.state]
    simp
  writes := by simpa using h1.writes.append h2.writes
  reads := by simpa using h1.reads.append h2.reads

theorem Emits.config {s t : State} {a : List Event} (h : Emits s t a) : t.config = s.config := by rw [h.state]
theorem Emits.backlight {s t : State} {a : List Event} (h : Emits s t a) : t.backlight = s.backlight := by rw [h.state]

/-- An event that is no bus transaction takes no answer. -/
theorem emit_emits {e : Event} (hw : e.writeAnswer = none) (hr : e.readAnswer = none) (s : State) : Emits s (emit e s) [e] where
  state := by simp [emit]
  writes := by simpa [writeAnswersOf, hw] using Consumes.none _
  reads := by simpa [readAnswersOf, hr] using Consumes.none _

theorem delay_emits (us : Nat) (s : State) : Emits s (emit (.delay us) s) [.delay us] := emit_emits rfl rfl s
theorem pinWrite_emits (p : Nat) (v : Bool) (s : State) : Emits s (emit (.pinWrite p v) s) [.pinWrite p v] := emit_emits rfl rfl s

theorem busWrite_emits (a : BitVec 7) (w : Byte) (s : State) :
    ∃ ack, (busWrite a w s).1 = !ack ∧ Emits s (busWrite a w s).2 [.busWrite a w ack] := by
  obtain ⟨h1, h2⟩ := takeWrite_consumes s.env
  refine ⟨s.env.takeWrite.1, rfl, by simp [busWrite, emit], h1, ?_⟩
  change Consumes s.env.readAnswers s.env.takeWrite.2.readAnswers []
  exact h2 ▸ .none _

theorem busRead_emits (a : BitVec 7) (s : State) :
    Emits s (busRead a s).2 [.busRead a (busRead a s).1] := by
  obtain ⟨h1, h2⟩ := takeRead_consumes s.env
  refine ⟨by simp [busRead, emit], ?_, h1⟩
  change Consumes s.env.writeAnswers s.env.takeRead.2.writeAnswers []
  exact h2 ▸ .none _

theorem emitOptionalPin_emits (p : Option Nat) (v : Bool) (s : State) :
    Emits s (emitOptionalPin p v s) (p.toList.map fun p => .pinWrite p v) := by
  cases p
  · exact .refl s
  · exact pinWrite_emits _ _ s

/-! ## The transport primitives -/

/-- E raised is the same word with the E bit set: the port word with `enable` (R93, R95). -/
theorem portByte_enable (x : ExpanderCfg) (n : Nibble) (rw rs bl : Bool) :
    x.portByte n false rw rs bl ||| lineMask x.pE = x.portByte n true rw rs bl := by
  simp [ExpanderCfg.portByte, bitIf]

/-- What the E-strobe on the bus does (R93). -/
theorem strobeWrites_emits (x : ExpanderCfg) (w : Byte) (s : State) :
    ∃ evs, (strobeWrites x w s).1 = anyFailed evs ∧ Emits s (strobeWrites x w s).2 evs ∧
      emissions evs = [.busWrite x.addr7 w, .busWrite x.addr7 (w ||| lineMask x.pE), .delay 1, .busWrite x.addr7 w, .delay 37] := by
  obtain ⟨a1, f1, e1⟩ := busWrite_emits x.addr7 w s
  obtain ⟨a2, f2, e2⟩ := busWrite_emits x.addr7 (w ||| lineMask x.pE) (busWrite x.addr7 w s).2
  obtain ⟨a3, f3, e3⟩ := busWrite_emits x.addr7 w (emit (.delay T_EH) (busWrite x.addr7 (w ||| lineMask x.pE) (busWrite x.addr7 w s).2).2)
  refine ⟨_, ?_, (((e1.trans e2).trans (delay_emits T_EH _)).trans e3).trans (delay_emits T_EL _), ?_⟩
  · simp [strobeWrites, f1, f2, f3, Event.failed, Bool.or_assoc]
  · simp [emissions, Event.emission, T_EH, T_EL]

theorem writeNibbleGpio_emits (g : GpioCfg) (n : Nibble) (rs : Bool) (s : State) :
    Emits s (writeNibbleGpio g n rs s)
      ([.pinWrite g.pinRs rs] ++ (g.pinRw.toList.map fun p => .pinWrite p false)
        ++ [.pinWrite g.pinD4 (n.getLsbD 0), .pinWrite g.pinD5 (n.getLsbD 1), .pinWrite g.pinD6 (n.getLsbD 2),
          .pinWrite g.pinD7 (n.getLsbD 3), .pinWrite g.pinE true, .delay 1, .pinWrite g.pinE false, .delay 37]) := by
  have h := (((((((((pinWrite_emits g.pinRs rs s).trans (emitOptionalPin_emits g.pinRw false _)).trans
    (pinWrite_emits g.pinD4 (n.getLsbD 0) _)).trans (pinWrite_emits g.pinD5 (n.getLsbD 1) _)).trans
    (pinWrite_emits g.pinD6 (n.getLsbD 2) _)).trans (pinWrite_emits g.pinD7 (n.getLsbD 3) _)).trans
    (pinWrite_emits g.pinE true _)).trans (delay_emits T_EH _)).trans (pinWrite_emits g.pinE false _)).trans (delay_emits T_EL _)
  simpa [writeNibbleGpio, T_EH, T_EL] using h

/-- What the transport's `writeNibble` does, in both variants (R93, R94). -/
theorem writeNibble_emits (n : Nibble) (rs : Bool) (s : State) :
    ∃ evs, (writeNibble n rs s).1 = anyFailed evs ∧ Emits s (writeNibble n rs s).2 evs ∧
      emissions evs = nibbleEmissions s.config s.backlight n rs := by
  unfold writeNibble
  cases h : s.config.transport with
  | expander x =>
    obtain ⟨evs, f, e, m⟩ := strobeWrites_emits x (x.portByte n false false rs s.blLevel) s
    exact ⟨evs, f, e, by simp [m, nibbleEmissions, h, portByte_enable, State.blLevel]⟩
  | gpio g =>
    refine ⟨_, ?_, writeNibbleGpio_emits g n rs s, ?_⟩
    · cases g.pinRw <;> simp [Event.failed]
    · cases hr : g.pinRw <;> simp [nibbleEmissions, h, hr, Event.emission]

/-- The emissions of the transport's `setBacklight(on)` (R96, R97). -/
def backlightEmissions (c : Config) (on : Bool) : List Emission :=
  match c.transport with
  | .expander x => [.busWrite x.addr7 (x.portByte 0 false false false (c.blLevel on))]
  | .gpio g => g.pinBl.toList.map fun p => .pinWrite p (c.blLevel on)

/-- What the transport's `setBacklight` does, in both variants (R96, R97). -/
theorem transportSetBacklight_emits (on : Bool) (s : State) :
    ∃ evs, (transportSetBacklight on s).1 = anyFailed evs ∧
      Emits { s with backlight := on } (transportSetBacklight on s).2 evs ∧ emissions evs = backlightEmissions s.config on := by
  unfold transportSetBacklight backlightEmissions
  cases h : s.config.transport with
  | expander x =>
    obtain ⟨ack, f, e⟩ := busWrite_emits x.addr7 (x.portByte 0 false false false (s.config.blLevel on)) { s with backlight := on }
    exact ⟨[.busWrite x.addr7 (x.portByte 0 false false false (s.config.blLevel on)) ack],
      by simpa [h, State.blLevel, Event.failed] using f, by simpa [h, State.blLevel] using e, rfl⟩
  | gpio g =>
    refine ⟨g.pinBl.toList.map fun p => .pinWrite p (s.config.blLevel on), ?_, ?_, ?_⟩
    · cases g.pinBl <;> simp [h, Event.failed]
    · simpa [h, State.blLevel] using emitOptionalPin_emits g.pinBl (s.config.blLevel on) { s with backlight := on }
    · cases hb : g.pinBl <;> simp [hb, Event.emission]

/-- What `read4bits` does (R99): its events, its failure, and its nibble when nothing failed. -/
theorem read4bits_emits (x : ExpanderCfg) (rs : Bool) (s : State) :
    ∃ evs, (read4bits x rs s).failed = anyFailed evs ∧ Emits s (read4bits x rs s).state evs ∧
      emissions evs = readEmissions x s.blLevel rs ∧
      (anyFailed evs = false → ∃ b, readAnswersOf evs = [some b] ∧ (read4bits x rs s).nibble = x.nibbleAt b) := by
  obtain ⟨a1, f1, e1⟩ := busWrite_emits x.addr7 (x.portByte 0xF false true rs s.blLevel) s
  generalize hs1 : busWrite x.addr7 (x.portByte 0xF false true rs s.blLevel) s = p1 at f1 e1
  obtain ⟨a2, f2, e2⟩ := busWrite_emits x.addr7 (x.portByte 0xF false true rs s.blLevel ||| lineMask x.pE) p1.2
  generalize hs2 : busWrite x.addr7 (x.portByte 0xF false true rs s.blLevel ||| lineMask x.pE) p1.2 = p2 at f2 e2
  have e3 := busRead_emits x.addr7 (emit (.delay T_EH) p2.2)
  generalize hs3 : busRead x.addr7 (emit (.delay T_EH) p2.2) = b at e3
  obtain ⟨a4, f4, e4⟩ := busWrite_emits x.addr7 (x.portByte 0xF false true rs s.blLevel) b.2
  generalize hs4 : busWrite x.addr7 (x.portByte 0xF false true rs s.blLevel) b.2 = p4 at f4 e4
  have hall := ((((e1.trans e2).trans (delay_emits T_EH _)).trans e3).trans e4).trans (delay_emits T_EL _)
  have hdraw : ∀ u : State, Emits u (drawNibble u).2 [] := fun u => ⟨by simp [drawNibble], .none _, .none _⟩
  have hr : read4bits x rs s =
      ⟨p1.1 || p2.1 || p4.1 || b.1.isNone,
        sampleNibble x (p1.1 || p2.1 || p4.1 || b.1.isNone) b.1 (drawNibble (emit (.delay T_EL) p4.2)).1,
        (drawNibble (emit (.delay T_EL) p4.2)).2⟩ := by
    simp only [read4bits, hs1, hs2, hs3, hs4]
  rw [hr]
  refine ⟨[.busWrite x.addr7 (x.portByte 0xF false true rs s.blLevel) a1,
    .busWrite x.addr7 (x.portByte 0xF false true rs s.blLevel ||| lineMask x.pE) a2, .delay 1, .busRead x.addr7 b.1,
    .busWrite x.addr7 (x.portByte 0xF false true rs s.blLevel) a4, .delay 37], ?_, ?_, ?_, ?_⟩
  · simp only [f1, f2, f4, anyFailed_cons, Event.failed, anyFailed_nil]
    cases a1 <;> cases a2 <;> cases a4 <;> cases b.1 <;> rfl
  · have := hdraw (emit (.delay T_EL) p4.2)
    simpa [T_EH, T_EL] using hall.trans this
  · simp [readEmissions, Event.emission, portByte_enable]
  · intro hf
    obtain ⟨v, hv⟩ : ∃ v, b.1 = some v := by
      cases hb : b.1 with
      | none => simp [Event.failed, hb] at hf
      | some v => exact ⟨v, rfl⟩
    have ha : a1 = true ∧ a2 = true ∧ a4 = true := by simpa [Event.failed, hv] using hf
    exact ⟨v, by rw [hv]; rfl, by simp [sampleNibble, f1, f2, f4, ha, hv]⟩

/-! ## Events performed -/

theorem Performs.refl (s : State) : Performs s s [] := ⟨by simp, .none _, .none _⟩

theorem Performs.trans {s t u : State} {a b : List Event} (h1 : Performs s t a) (h2 : Performs t u b) :
    Performs s u (a ++ b) where
  state := by
    rw [h2.state, h1.state]
    simp [Bool.or_assoc]
  writes := by simpa using h1.writes.append h2.writes
  reads := by simpa using h1.reads.append h2.reads

/-- Emitting, and then noting the failure of what was emitted, performs it. -/
theorem Emits.noted {s t : State} {a : List Event} (h : Emits s t a) : Performs s (noteFailure (anyFailed a) t) a where
  state := by
    rw [h.state]
    rfl
  writes := by simpa using h.writes
  reads := by simpa using h.reads

theorem Emits.performs {s t : State} {a : List Event} (h : Emits s t a) (hf : anyFailed a = false) : Performs s t a where
  state := by
    rw [h.state]
    simp [hf]
  writes := h.writes
  reads := h.reads

theorem wait_performs (us : Nat) (s : State) : Performs s (wait us s) [.delay us] := (delay_emits us s).performs rfl

section
variable {s t : State} {a : List Event} (h : Performs s t a)
include h
theorem Performs.phase : t.phase = s.phase := by rw [h.state]
theorem Performs.entryMode : t.entryMode = s.entryMode := by rw [h.state]
theorem Performs.displayControl : t.displayControl = s.displayControl := by rw [h.state]
theorem Performs.functionSet : t.functionSet = s.functionSet := by rw [h.state]
theorem Performs.cols : t.cols = s.cols := by rw [h.state]
theorem Performs.rows : t.rows = s.rows := by rw [h.state]
theorem Performs.charSize : t.charSize = s.charSize := by rw [h.state]
theorem Performs.backlight : t.backlight = s.backlight := by rw [h.state]
theorem Performs.config : t.config = s.config := by rw [h.state]
theorem Performs.requests : t.requests = s.requests := by rw [h.state]
theorem Performs.ret : t.ret = s.ret := by rw [h.state]
theorem Performs.trace : t.trace = s.trace ++ a := by rw [h.state]
theorem Performs.opFail : t.opFail = (s.opFail || anyFailed a) := by rw [h.state]
theorem Performs.faultSeen : t.faultSeen = (s.faultSeen || anyFailed a) := by rw [h.state]
end

/-- What `send` of a byte does (R110): its two nibbles, and the failure it reports. -/
theorem sendByte_performs (b : Byte) (rs : Bool) (s : State) :
    ∃ evs, (sendByte b rs s).1 = anyFailed evs ∧ Performs s (sendByte b rs s).2 evs ∧
      emissions evs = byteEmissions s.config s.backlight rs b := by
  obtain ⟨a1, f1, e1, m1⟩ := writeNibble_emits (highNibble b) rs s
  obtain ⟨a2, f2, e2, m2⟩ := writeNibble_emits (lowNibble b) rs (writeNibble (highNibble b) rs s).2
  refine ⟨a1 ++ a2, by simp [sendByte, f1, f2], ?_, ?_⟩
  · have := (e1.trans e2).noted
    simpa [sendByte, f1, f2] using this
  · simp [m1, m2, byteEmissions, e1.config, e1.backlight]

theorem send_performs (b : Byte) (rs : Bool) (s : State) :
    ∃ evs, Performs s (send b rs s) evs ∧ emissions evs = byteEmissions s.config s.backlight rs b := by
  obtain ⟨evs, -, h, m⟩ := sendByte_performs b rs s
  exact ⟨evs, h, m⟩

theorem sendNibble_performs (n : Nibble) (s : State) :
    ∃ evs, Performs s (sendNibble n s) evs ∧ emissions evs = nibbleEmissions s.config s.backlight n false := by
  obtain ⟨a, f, e, m⟩ := writeNibble_emits n false s
  exact ⟨a, by simpa [sendNibble, f] using e.noted, m⟩

/-- A command byte followed by a wait (R61, R62). -/
theorem sendWait_performs (b : Byte) (us : Nat) (s : State) :
    ∃ evs, Performs s (wait us (sendCommand b s)) evs ∧
      emissions evs = byteEmissions s.config s.backlight false b ++ [.delay us] := by
  obtain ⟨a, h, m⟩ := send_performs b false s
  exact ⟨a ++ [.delay us], h.trans (wait_performs us _), by simp [m, Event.emission]⟩

/-- A single nibble followed by a wait (R122 steps 2 to 5). -/
theorem nibbleWait_performs (n : Nibble) (us : Nat) (s : State) :
    ∃ evs, Performs s (wait us (sendNibble n s)) evs ∧
      emissions evs = nibbleEmissions s.config s.backlight n false ++ [.delay us] := by
  obtain ⟨a, h, m⟩ := sendNibble_performs n s
  exact ⟨a ++ [.delay us], h.trans (wait_performs us _), by simp [m, Event.emission]⟩

end Sys2Proof.Machine
end

