-- ==== Sys2Proof/Laws/Lines.lean ====
section
/-! SUPPORT. The lines and strobes that the primitives' emissions make, in both variants (spec/40_transport.md R93 to R95). -/

namespace Sys2Proof

theorem getLsbD_lineMask (p q : Fin 8) : (lineMask p).getLsbD q = decide (p = q) := by
  revert p q; decide

theorem getLsbD_bitIf (b : Bool) (m : Byte) (i : Nat) : (bitIf b m).getLsbD i = (b && m.getLsbD i) := by
  cases b <;> simp [bitIf]

@[simp] theorem nibbleOf_getLsbD (n : Nibble) :
    nibbleOf (n.getLsbD 0) (n.getLsbD 1) (n.getLsbD 2) (n.getLsbD 3) = n := by
  revert n; decide

@[simp] theorem getLsbD_nibbleOf (a b c d : Bool) :
    (nibbleOf a b c d).getLsbD 0 = a ∧ (nibbleOf a b c d).getLsbD 1 = b ∧ (nibbleOf a b c d).getLsbD 2 = c ∧
      (nibbleOf a b c d).getLsbD 3 = d := by
  revert a b c d; decide

/-- The port word carries each field at its own line, when the eight positions are distinct (R73, R19). -/
theorem portByte_fields {x : ExpanderCfg} (hx : (expanderPositions x).Nodup) (n : Nibble) (e rw rs bl : Bool) :
    (x.portByte n e rw rs bl).getLsbD x.pRs = rs ∧ (x.portByte n e rw rs bl).getLsbD x.pRw = rw ∧
      (x.portByte n e rw rs bl).getLsbD x.pE = e ∧ (x.portByte n e rw rs bl).getLsbD x.pBl = bl ∧
      (x.portByte n e rw rs bl).getLsbD x.pD4 = n.getLsbD 0 ∧ (x.portByte n e rw rs bl).getLsbD x.pD5 = n.getLsbD 1 ∧
      (x.portByte n e rw rs bl).getLsbD x.pD6 = n.getLsbD 2 ∧ (x.portByte n e rw rs bl).getLsbD x.pD7 = n.getLsbD 3 := by
  simp only [expanderPositions, List.nodup_cons, List.mem_cons, List.not_mem_nil, or_false, not_or] at hx
  have key : ∀ q : Fin 8, (x.portByte n e rw rs bl).getLsbD q =
      ((((((((n.getLsbD 0 && decide (x.pD4 = q)) || (n.getLsbD 1 && decide (x.pD5 = q))) || (n.getLsbD 2 && decide (x.pD6 = q)))
        || (n.getLsbD 3 && decide (x.pD7 = q))) || (rs && decide (x.pRs = q))) || (rw && decide (x.pRw = q)))
        || (bl && decide (x.pBl = q))) || (e && decide (x.pE = q))) := by
    intro q
    simp only [ExpanderCfg.portByte, ExpanderCfg.dataBits, BitVec.getLsbD_or, getLsbD_bitIf, getLsbD_lineMask]
  simp only [key]
  simp [hx, eq_comm]

/-- The nibble of a port word is read back (R73, R99). -/
theorem nibbleAt_portByte {x : ExpanderCfg} (hx : (expanderPositions x).Nodup) (n : Nibble) (e rw rs bl : Bool) :
    x.nibbleAt (x.portByte n e rw rs bl) = n := by
  obtain ⟨-, -, -, -, h4, h5, h6, h7⟩ := portByte_fields hx n e rw rs bl
  rw [ExpanderCfg.nibbleAt, h4, h5, h6, h7, nibbleOf_getLsbD]

end Sys2Proof

namespace Sys2Proof.Machine

/-- The port word drives exactly its fields on the lines (R43, R73). -/
theorem portLines_portByte {x : ExpanderCfg} (hx : (expanderPositions x).Nodup) (n : Nibble) (e rw rs bl : Bool) :
    portLines x (x.portByte n e rw rs bl) =
      ⟨rs, rw, e, bl, n.getLsbD 0, n.getLsbD 1, n.getLsbD 2, n.getLsbD 3⟩ := by
  obtain ⟨h1, h2, h3, h4, h5, h6, h7, h8⟩ := portByte_fields hx n e rw rs bl
  simp only [portLines, h1, h2, h3, h4, h5, h6, h7, h8]

/-- As `Strobes`, of a list of emissions. -/
def StrobesOf (t : Transport) (es : List Emission) (frames : List Strobe) : Prop :=
  ∀ l : Lines, l.e = false →
    strobes t l es = frames ∧ risingEdges t l es = frames.length ∧ (linesAfterAll t l es).e = false

theorem strobes_iff {c : Config} {evs : List Event} {es : List Emission} {frames : List Strobe} (h : emissions evs = es) :
    Strobes c evs frames ↔ StrobesOf c.transport es frames := by subst h; rfl

theorem strobes_append (t : Transport) (l : Lines) (a b : List Emission) :
    strobes t l (a ++ b) = strobes t l a ++ strobes t (linesAfterAll t l a) b := by
  induction a generalizing l with
  | nil => rfl
  | cons e a ih => simp only [List.cons_append, strobes, linesAfterAll, ih]; split <;> simp

theorem risingEdges_append (t : Transport) (l : Lines) (a b : List Emission) :
    risingEdges t l (a ++ b) = risingEdges t l a + risingEdges t (linesAfterAll t l a) b := by
  induction a generalizing l with
  | nil => simp [risingEdges, linesAfterAll]
  | cons e a ih => simp only [List.cons_append, risingEdges, linesAfterAll, ih]; omega

theorem linesAfterAll_append (t : Transport) (l : Lines) (a b : List Emission) :
    linesAfterAll t l (a ++ b) = linesAfterAll t (linesAfterAll t l a) b := by
  induction a generalizing l with
  | nil => rfl
  | cons e a ih => exact ih _

theorem StrobesOf.append {t : Transport} {a b : List Emission} {f g : List Strobe} (ha : StrobesOf t a f) (hb : StrobesOf t b g) :
    StrobesOf t (a ++ b) (f ++ g) := by
  intro l hl
  obtain ⟨a1, a2, a3⟩ := ha l hl
  obtain ⟨b1, b2, b3⟩ := hb _ a3
  exact ⟨by rw [strobes_append, a1, b1], by rw [risingEdges_append, a2, b2, List.length_append],
    by rw [linesAfterAll_append, b3]⟩

theorem StrobesOf.nil (t : Transport) : StrobesOf t [] [] := fun _ hl => ⟨rfl, rfl, hl⟩

/-- A wait drives no line. -/
theorem StrobesOf.delay (t : Transport) (us : Nat) : StrobesOf t [.delay us] [] := by
  intro l hl
  simp [strobes, risingEdges, linesAfterAll, linesAfter, hl]

theorem StrobesOf.wait {t : Transport} {a : List Emission} {f : List Strobe} (ha : StrobesOf t a f) (us : Nat) :
    StrobesOf t (a ++ [.delay us]) f := by simpa using ha.append (.delay t us)

/-- The three writes of a bus strobe, with or without a read between (R93, R95, R99): one strobe carrying the word's fields. -/
theorem strobesOf_bus {x : ExpanderCfg} (hx : (expanderPositions x).Nodup) (n : Nibble) (rw rs bl : Bool) (mid : List Emission)
    (hmid : ∀ l, linesAfterAll (.expander x) l mid = l ∧ strobes (.expander x) l mid = [] ∧ risingEdges (.expander x) l mid = 0)
    (us : Nat) :
    StrobesOf (.expander x)
      ([.busWrite x.addr7 (x.portByte n false rw rs bl), .busWrite x.addr7 (x.portByte n true rw rs bl)] ++ mid
        ++ [.busWrite x.addr7 (x.portByte n false rw rs bl), .delay us]) [⟨n, rs, rw⟩] := by
  intro l hl
  have hn : nibbleOf n[0] n[1] n[2] n[3] = n := by simpa using nibbleOf_getLsbD n
  simp [strobes_append, risingEdges_append, linesAfterAll_append, strobes, risingEdges, linesAfterAll, linesAfter,
    portLines_portByte hx, Lines.nibble, hl, hmid, hn]

/-- The pin writes of a nibble (R94, R95): one strobe carrying the nibble and RS, with RW low. -/
theorem strobesOf_pins {g : GpioCfg} (hg : (gpioPins g).Nodup) (n : Nibble) (rs : Bool) :
    StrobesOf (.gpio g)
      ([.pinWrite g.pinRs rs] ++ (g.pinRw.toList.map fun p => .pinWrite p false)
        ++ [.pinWrite g.pinD4 (n.getLsbD 0), .pinWrite g.pinD5 (n.getLsbD 1), .pinWrite g.pinD6 (n.getLsbD 2),
          .pinWrite g.pinD7 (n.getLsbD 3), .pinWrite g.pinE true, .delay 1, .pinWrite g.pinE false, .delay 37])
      [⟨n, rs, false⟩] := by
  obtain ⟨pRs, pRw, pE, p4, p5, p6, p7, pBl⟩ := g
  cases pRw <;> cases pBl <;>
  · simp only [gpioPins, Option.toList, List.nil_append, List.cons_append, List.append_nil, List.nodup_cons, List.mem_cons,
      List.not_mem_nil, or_false, not_or] at hg
    intro l hl
    have hn : n = nibbleOf n[0] n[1] n[2] n[3] := by simpa using (nibbleOf_getLsbD n).symm
    have sym : ∀ a b : Nat, ¬a = b → (b = a) = False := fun a b h => eq_false fun e => h e.symm
    simp [strobes, risingEdges, linesAfterAll, linesAfter, pinLines, drivenBit, Lines.nibble, hg, hl, sym, ← hn]

/-- A nibble written makes one strobe, in both variants (R93 to R95). -/
theorem strobesOf_nibble {c : Config} (hc : c.valid = true) (backlight : Bool) (n : Nibble) (rs : Bool) :
    StrobesOf c.transport (nibbleEmissions c backlight n rs) [⟨n, rs, false⟩] := by
  obtain ⟨t, pol, rd⟩ := c
  cases t with
  | expander x =>
    have hx : (expanderPositions x).Nodup := by simpa [Config.valid] using hc
    exact strobesOf_bus hx n false rs _ [.delay 1] (fun l => ⟨rfl, by simp [strobes, linesAfter], by simp [risingEdges, linesAfter]⟩) 37
  | gpio g =>
    have hg : (gpioPins g).Nodup := by
      simp only [Config.valid, Bool.and_eq_true, decide_eq_true_eq] at hc
      exact hc.1
    exact strobesOf_pins hg n rs

/-- A byte written makes its two strobes, high nibble first (R72, R110). -/
theorem strobesOf_byte {c : Config} (hc : c.valid = true) (backlight : Bool) (rs : Bool) (b : Byte) :
    StrobesOf c.transport (byteEmissions c backlight rs b) (byteStrobes rs b) :=
  (strobesOf_nibble hc backlight (highNibble b) rs).append (strobesOf_nibble hc backlight (lowNibble b) rs)

/-- A read strobe: RW high, the data lines high (R99). -/
theorem strobesOf_read {x : ExpanderCfg} (hx : (expanderPositions x).Nodup) (bl rs : Bool) :
    StrobesOf (.expander x) (readEmissions x bl rs) [⟨0xF, rs, true⟩] :=
  strobesOf_bus hx 0xF true rs bl [.delay 1, .busRead x.addr7]
    (fun l => ⟨rfl, by simp [strobes, linesAfter], by simp [risingEdges, linesAfter]⟩) 37

/-- The waits of a nibble: `T_EH + T_EL` (R213). -/
theorem totalWait_nibble (c : Config) (backlight : Bool) (n : Nibble) (rs : Bool) :
    totalWait (nibbleEmissions c backlight n rs) = 38 := by
  unfold nibbleEmissions
  cases c.transport with
  | expander x => simp [Emission.waits]
  | gpio g => cases h : g.pinRw <;> simp [h, Emission.waits]

/-- The waits of a byte (R213). -/
theorem totalWait_byte (c : Config) (backlight : Bool) (rs : Bool) (b : Byte) :
    totalWait (byteEmissions c backlight rs b) = 76 := by
  simp [byteEmissions, totalWait_nibble]

end Sys2Proof.Machine
end

