-- ==== Sys2Proof/Laws/Operations.lean ====
section
/-! SUPPORT. One lemma per shared operation built from `send` and `writeNibble`: the `misuse` check (spec/60_exceptions.md R182), lists
of data bytes (spec/43_commands.md R155, spec/44_facade.md R171), and the handshake (spec/42_init.md R122). -/

namespace Sys2Proof.Machine

/-- In Ready the check passes and the operation starts with `opFail` clear (R18, R182). -/
theorem requireReady_ready (op : HostOp) {s : State} (h : s.phase = .ready) (body : State → Result) :
    requireReady op s body = body (clearOpFail s) := by
  simp only [requireReady, h]

/-- Before `begin` has succeeded the check is the fault (R182). -/
theorem requireReady_uninitialized (op : HostOp) {s : State} (h : s.phase = .uninitialized) (body : State → Result) :
    requireReady op s body = .fault (.misuse op) := by
  simp only [requireReady, h]

/-- A glyph or any list of data bytes (R155). -/
theorem sendAll_performs (bytes : List Byte) (s : State) :
    ∃ evs, Performs s (sendAll bytes s) evs ∧
      emissions evs = bytes.flatMap (byteEmissions s.config s.backlight true) := by
  induction bytes generalizing s with
  | nil => exact ⟨[], .refl s, rfl⟩
  | cons b bs ih =>
    obtain ⟨a, h, m⟩ := send_performs b true s
    obtain ⟨a', h', m'⟩ := ih (send b true s)
    exact ⟨a ++ a', h.trans h', by simp [m, m', h.config, h.backlight]⟩

/-- The bytes of a string and the count of those whose writes were all acknowledged (R171). -/
theorem sendString_performs (bytes : List Byte) (count : Nat) (s : State) :
    ∃ chunks : List (List Event), (sendString bytes count s).1 = count + chunks.countP (fun evs => !anyFailed evs) ∧
      Performs s (sendString bytes count s).2 chunks.flatten ∧
      chunks.map emissions = bytes.map (byteEmissions s.config s.backlight true) := by
  induction bytes generalizing s count with
  | nil => exact ⟨[], rfl, .refl s, rfl⟩
  | cons b bs ih =>
    obtain ⟨a, f, h, m⟩ := sendByte_performs b true s
    obtain ⟨ch, f', h', m'⟩ := ih (if (sendByte b true s).1 then count else count + 1) (sendByte b true s).2
    refine ⟨a :: ch, ?_, h.trans h', by simp [m, m', h.config, h.backlight]⟩
    simp only [sendString, f', List.countP_cons]
    rw [f]
    cases anyFailed a <;> (simp; try omega)

/-- A shadow written commutes with what does not touch it. -/
theorem Performs.setDisplayControl {s t : State} {a : List Event} (h : Performs s t a) (v : Byte) :
    Performs { s with displayControl := v } { t with displayControl := v } a where
  state := by rw [h.state]
  writes := h.writes
  reads := h.reads

theorem Performs.setEntryMode {s t : State} {a : List Event} (h : Performs s t a) (v : Byte) :
    Performs { s with entryMode := v } { t with entryMode := v } a where
  state := by rw [h.state]
  writes := h.writes
  reads := h.reads

/-- Steps 1 to 5 (R122): nibbles and waits only. -/
theorem beginWakeup_performs (s : State) :
    ∃ evs, Performs s (beginStep5 (beginWake T_WAKE3 (beginWake T_WAKE2 (beginWake T_WAKE1 (beginStep1 s))))) evs ∧
      emissions evs = ([
        [.delay 40000],
        nibbleEmissions s.config s.backlight 0x3 false, [.delay 4500],
        nibbleEmissions s.config s.backlight 0x3 false, [.delay 150],
        nibbleEmissions s.config s.backlight 0x3 false, [.delay 150],
        nibbleEmissions s.config s.backlight 0x2 false, [.delay 150]] : List (List Emission)).flatten := by
  have h1 := wait_performs T_POWERON s
  obtain ⟨a2, h2, m2⟩ := nibbleWait_performs wakeNibble T_WAKE1 (wait T_POWERON s)
  generalize hs2 : wait T_WAKE1 (sendNibble wakeNibble (wait T_POWERON s)) = s2 at h2
  obtain ⟨a3, h3, m3⟩ := nibbleWait_performs wakeNibble T_WAKE2 s2
  generalize hs3 : wait T_WAKE2 (sendNibble wakeNibble s2) = s3 at h3
  obtain ⟨a4, h4, m4⟩ := nibbleWait_performs wakeNibble T_WAKE3 s3
  generalize hs4 : wait T_WAKE3 (sendNibble wakeNibble s3) = s4 at h4
  obtain ⟨a5, h5, m5⟩ := nibbleWait_performs to4bitNibble T_TO4 s4
  refine ⟨[.delay T_POWERON] ++ a2 ++ a3 ++ a4 ++ a5, ?_, ?_⟩
  · simp only [beginStep5, beginWake, beginStep1, hs2, hs3, hs4]
    exact (((h1.trans h2).trans h3).trans h4).trans h5
  · have c2 := (h1.trans h2).config
    have c3 := ((h1.trans h2).trans h3).config
    have c4 := (((h1.trans h2).trans h3).trans h4).config
    have b2 := (h1.trans h2).backlight
    have b3 := ((h1.trans h2).trans h3).backlight
    have b4 := (((h1.trans h2).trans h3).trans h4).backlight
    simp [m2, m3, m4, m5, Event.emission, c2, c3, c4, b2, b3, b4, wakeNibble, to4bitNibble, T_POWERON, T_WAKE1, T_WAKE2,
      T_WAKE3, T_TO4]

/-- The handshake (R122): all its events, whatever the answers, and the shadows it leaves. -/
theorem beginSequence_performs (s : State) :
    ∃ evs, Performs { s with displayControl := 0x04, entryMode := 0x02 } (beginSequence s) evs ∧
      emissions evs = ([
        [.delay 40000],
        nibbleEmissions s.config s.backlight 0x3 false, [.delay 4500],
        nibbleEmissions s.config s.backlight 0x3 false, [.delay 150],
        nibbleEmissions s.config s.backlight 0x3 false, [.delay 150],
        nibbleEmissions s.config s.backlight 0x2 false, [.delay 150],
        byteEmissions s.config s.backlight false (0x20 ||| s.functionSet),
        byteEmissions s.config s.backlight false 0x08,
        byteEmissions s.config s.backlight false 0x01, [.delay 2000],
        byteEmissions s.config s.backlight false 0x06,
        byteEmissions s.config s.backlight false 0x0C] : List (List Emission)).flatten := by
  obtain ⟨a5, h5, m5⟩ := beginWakeup_performs s
  generalize hs5 : beginStep5 (beginWake T_WAKE3 (beginWake T_WAKE2 (beginWake T_WAKE1 (beginStep1 s)))) = s5 at h5
  obtain ⟨a6, h6, m6⟩ := send_performs (functionSetByte s5.functionSet) false s5
  generalize hs6 : send (functionSetByte s5.functionSet) false s5 = s6 at h6
  obtain ⟨a7, h7, m7⟩ := send_performs (displayControlByte 0) false { s6 with displayControl := 0 }
  generalize hs7 : send (displayControlByte 0) false { s6 with displayControl := 0 } = s7 at h7
  obtain ⟨a8, h8, m8⟩ := sendWait_performs clearByte T_CLEAR s7
  generalize hs8 : wait T_CLEAR (sendCommand clearByte s7) = s8 at h8
  obtain ⟨a9, h9, m9⟩ := send_performs (entryModeByte EM_INC) false { s8 with entryMode := EM_INC }
  generalize hs9 : send (entryModeByte EM_INC) false { s8 with entryMode := EM_INC } = s9 at h9
  obtain ⟨a10, h10, m10⟩ := send_performs (displayControlByte DC_DISPLAY) false { s9 with displayControl := DC_DISPLAY }
  have H8 := (((h5.trans h6).setDisplayControl 0).trans h7).trans h8
  have H9 := (H8.setEntryMode EM_INC).trans h9
  have H10 := (H9.setDisplayControl DC_DISPLAY).trans h10
  refine ⟨a5 ++ a6 ++ a7 ++ a8 ++ a9 ++ a10, ?_, ?_⟩
  · have e : beginSequence s = send (displayControlByte DC_DISPLAY) false { s9 with displayControl := DC_DISPLAY } := by
      simp only [beginSequence, hs5, beginStep6, sendCommand, hs6, beginDisplay, hs7, beginStep8, transferClear, beginStep9]
      rw [show wait T_CLEAR (send clearByte false s7) = s8 from hs8, hs9]
    rw [e]
    exact H10
  · have c5 := h5.config
    have b5 := h5.backlight
    have f5 := h5.functionSet
    have c6 := (h5.trans h6).config
    have b6 := (h5.trans h6).backlight
    have c7 := (((h5.trans h6).setDisplayControl 0).trans h7).config
    have b7 := (((h5.trans h6).setDisplayControl 0).trans h7).backlight
    have c8 := H8.config
    have b8 := H8.backlight
    have c9 := H9.config
    have b9 := H9.backlight
    simp only at c7 b7 c8 b8 c9 b9
    simp [m5, m6, m7, m8, m9, m10, c5, b5, f5, c6, b6, c7, b7, c8, b8, c9, b9, functionSetByte, FUNCTION_BASE,
      displayControlByte, DISPLAY_BASE, clearByte, entryModeByte, ENTRY_BASE, EM_INC, DC_DISPLAY, T_CLEAR]

/-! ## The handshake as a state machine (R124) -/

/-- With nothing presented an idle state stays, and nothing changes. -/
theorem seqStep_idle {p : SeqState} (hp : p.idle = true) (s : State) : seqStep none (p, s) = .next (p, s) := by
  cases p <;> first | rfl | cases hp

/-- An operation presented while one is in progress is refused (R184, R194). -/
theorem seqStep_busy {p : SeqState} (hp : p.idle = false) (i : Instr) (s : State) :
    seqStep (some i) (p, s) = .refused .concurrentEntry := by
  cases p <;> first | rfl | cases hp

/-- A well-typed `begin` in `I0` captures its operands (R121, R124). -/
theorem seqStep_begin {cols rows : Nat} (hc : colsOk cols = true) (hr : rowsOk rows = true) (cs : CharSize) (s : State) :
    seqStep (some (.begin cols rows cs)) (.i0, s) = .next (.i1, captureBegin cols rows cs s) := by
  simp [seqStep, seqPresented, seqStart, hc, hr]

/-- With nothing presented a run goes on from the next state. -/
theorem seqRun_none (offers : List (Option Instr)) (p : SeqState) (s : State) :
    seqRun (none :: offers) (p, s) = seqRun offers (seqNext p s, seqAction p s) := rfl

/-! The action of each state of R124 is its step of R122. -/

theorem seqAction_i1 (s : State) : seqAction .i1 s = beginStep1 s := rfl
theorem seqAction_i2 (s : State) : seqAction .i2 s = beginWake T_WAKE1 s := rfl
theorem seqAction_i3 (s : State) : seqAction .i3 s = beginWake T_WAKE2 s := rfl
theorem seqAction_i4 (s : State) : seqAction .i4 s = beginWake T_WAKE3 s := rfl
theorem seqAction_i5 (s : State) : seqAction .i5 s = beginStep5 s := rfl
theorem seqAction_i6 (s : State) : seqAction .i6 s = beginStep6 s := rfl
theorem seqAction_i7 (s : State) : seqAction .i7 s = beginDisplay 0x00 s := rfl
theorem seqAction_i8 (s : State) : seqAction .i8 s = beginStep8 s := rfl
theorem seqAction_i9 (s : State) : seqAction .i9 s = beginStep9 s := rfl
theorem seqAction_i10 (s : State) : seqAction .i10 s = beginDisplay DC_DISPLAY s := rfl

/-- From `I1`, with nothing presented, eleven transitions run the ten steps and decide (R122 to R124). -/
theorem seqRun_sequence (s : State) :
    seqRun (List.replicate 11 none) (.i1, s) = .next (seqNext .done (beginSequence s), seqComplete (beginSequence s)) := by
  simp only [List.replicate, seqRun_none, seqNext, seqAction_i1, seqAction_i2, seqAction_i3, seqAction_i4, seqAction_i5,
    seqAction_i6, seqAction_i7, seqAction_i8, seqAction_i9, seqAction_i10, beginSequence]
  rfl

end Sys2Proof.Machine
end

