-- ==== Sys2Proof/Laws/PerInstr.lean ====
section
/-! SUPPORT. Laws said of every instruction, one lemma per constructor. TableBits: the first byte of an instruction's encoding has the
format, the match and the mask of its row of spec/opcode_table.json (spec/30_encoding.md R60, R70, R71, R73, R79). -/

namespace Sys2Proof.Laws.TableBits

/-- The row of the opcode table: format, match, mask. -/
def row : Instr → Format × Byte × Byte
  | .clearDisplay => (.cmd8, 0x01, 0xFF)
  | .returnHome => (.cmd8, 0x02, 0xFF)
  | .entryModeSet _ _ => (.cmd8, 0x04, 0xFC)
  | .displayControl _ _ _ => (.cmd8, 0x08, 0xF8)
  | .cursorDisplayShift _ _ => (.cmd8, 0x10, 0xF3)
  | .functionSet _ _ _ => (.cmd8, 0x20, 0xE3)
  | .setCgramAddress _ => (.cmd8, 0x40, 0xC0)
  | .setDdramAddress _ => (.cmd8, 0x80, 0x80)
  | .dataByte _ => (.data8, 0x00, 0x00)
  | .wake => (.nib4, 0x3, 0xF)
  | .to4bit => (.nib4, 0x2, 0xF)
  | .portWord _ _ _ _ => (.port8, 0x00, 0x00)
  | .begin _ _ _ => (.hostOp, 0x00, 0x1F)
  | .command _ => (.hostOp, 0x01, 0x1F)
  | .writeData _ => (.hostOp, 0x02, 0x1F)
  | .clear => (.hostOp, 0x03, 0x1F)
  | .home => (.hostOp, 0x04, 0x1F)
  | .display => (.hostOp, 0x05, 0x1F)
  | .noDisplay => (.hostOp, 0x06, 0x1F)
  | .cursor => (.hostOp, 0x07, 0x1F)
  | .noCursor => (.hostOp, 0x08, 0x1F)
  | .blink => (.hostOp, 0x09, 0x1F)
  | .noBlink => (.hostOp, 0x0A, 0x1F)
  | .leftToRight => (.hostOp, 0x0B, 0x1F)
  | .rightToLeft => (.hostOp, 0x0C, 0x1F)
  | .autoscroll => (.hostOp, 0x0D, 0x1F)
  | .noAutoscroll => (.hostOp, 0x0E, 0x1F)
  | .scrollDisplayLeft => (.hostOp, 0x0F, 0x1F)
  | .scrollDisplayRight => (.hostOp, 0x10, 0x1F)
  | .setCursor _ _ => (.hostOp, 0x11, 0x1F)
  | .createChar _ _ => (.hostOp, 0x12, 0x1F)
  | .setBacklight _ => (.hostOp, 0x13, 0x1F)
  | .write _ => (.hostOp, 0x14, 0x1F)
  | .writeString _ => (.hostOp, 0x15, 0x1F)
  | .getCharAt _ _ => (.hostOp, 0x16, 0x1F)

/-- The encoding of an instruction begins with a byte that fits its row, in the row's format. -/
def Statement (i : Instr) : Prop :=
  ∀ (c : Config) (backlight : Bool), i.existsOn c = true →
    (encode c backlight i).format = (row i).1 ∧
      ∃ b rest, (encode c backlight i).bytes = b :: rest ∧ b &&& (row i).2.2 = (row i).2.1

theorem clearDisplay : Statement .clearDisplay :=
  fun _ _ _ => ⟨rfl, _, _, rfl, rfl⟩
theorem returnHome : Statement .returnHome :=
  fun _ _ _ => ⟨rfl, _, _, rfl, rfl⟩
theorem entryModeSet (inc shift : Bool) : Statement (.entryModeSet inc shift) :=
  fun _ _ h => ⟨rfl, _, _, rfl, by clear h; revert inc shift; decide⟩
theorem displayControl (display cursor blink : Bool) : Statement (.displayControl display cursor blink) :=
  fun _ _ h => ⟨rfl, _, _, rfl, by clear h; revert display cursor blink; decide⟩
theorem cursorDisplayShift (moveDisplay right : Bool) : Statement (.cursorDisplayShift moveDisplay right) :=
  fun _ _ h => ⟨rfl, _, _, rfl, by clear h; revert moveDisplay right; decide⟩
theorem functionSet (eightBit twoLine font5x10 : Bool) : Statement (.functionSet eightBit twoLine font5x10) :=
  fun _ _ h => ⟨rfl, _, _, rfl, by clear h; revert eightBit twoLine font5x10; decide⟩
theorem setCgramAddress (addr : BitVec 6) : Statement (.setCgramAddress addr) :=
  fun _ _ h => ⟨rfl, _, _, rfl, by clear h; revert addr; decide⟩
theorem setDdramAddress (addr : BitVec 7) : Statement (.setDdramAddress addr) :=
  fun _ _ h => ⟨rfl, _, _, rfl, by clear h; revert addr; decide⟩
theorem dataByte (byte : Byte) : Statement (.dataByte byte) :=
  fun _ _ _ => ⟨rfl, _, _, rfl, by simp [row]⟩
theorem wake : Statement .wake :=
  fun _ _ _ => ⟨rfl, _, _, rfl, rfl⟩
theorem to4bit : Statement .to4bit :=
  fun _ _ _ => ⟨rfl, _, _, rfl, rfl⟩
theorem portWord (nibble : Nibble) (enable rw rs : Bool) : Statement (.portWord nibble enable rw rs) :=
  fun ⟨t, _, _⟩ _ h => by
    cases t with
    | expander x => exact ⟨rfl, _, _, rfl, by simp [row]⟩
    | gpio g => cases h
theorem begin (cols rows : Nat) (charSize : CharSize) : Statement (.begin cols rows charSize) :=
  fun _ _ _ => ⟨rfl, _, _, rfl, by simp [TableBits.row, HostOp.selector]⟩
theorem command (byte : Byte) : Statement (.command byte) :=
  fun _ _ _ => ⟨rfl, _, _, rfl, by simp [TableBits.row, HostOp.selector]⟩
theorem writeData (byte : Byte) : Statement (.writeData byte) :=
  fun _ _ _ => ⟨rfl, _, _, rfl, by simp [TableBits.row, HostOp.selector]⟩
theorem clear : Statement .clear :=
  fun _ _ _ => ⟨rfl, _, _, rfl, by simp [TableBits.row, HostOp.selector]⟩
theorem home : Statement .home :=
  fun _ _ _ => ⟨rfl, _, _, rfl, by simp [TableBits.row, HostOp.selector]⟩
theorem display : Statement .display :=
  fun _ _ _ => ⟨rfl, _, _, rfl, by simp [TableBits.row, HostOp.selector]⟩
theorem noDisplay : Statement .noDisplay :=
  fun _ _ _ => ⟨rfl, _, _, rfl, by simp [TableBits.row, HostOp.selector]⟩
theorem cursor : Statement .cursor :=
  fun _ _ _ => ⟨rfl, _, _, rfl, by simp [TableBits.row, HostOp.selector]⟩
theorem noCursor : Statement .noCursor :=
  fun _ _ _ => ⟨rfl, _, _, rfl, by simp [TableBits.row, HostOp.selector]⟩
theorem blink : Statement .blink :=
  fun _ _ _ => ⟨rfl, _, _, rfl, by simp [TableBits.row, HostOp.selector]⟩
theorem noBlink : Statement .noBlink :=
  fun _ _ _ => ⟨rfl, _, _, rfl, by simp [TableBits.row, HostOp.selector]⟩
theorem leftToRight : Statement .leftToRight :=
  fun _ _ _ => ⟨rfl, _, _, rfl, by simp [TableBits.row, HostOp.selector]⟩
theorem rightToLeft : Statement .rightToLeft :=
  fun _ _ _ => ⟨rfl, _, _, rfl, by simp [TableBits.row, HostOp.selector]⟩
theorem autoscroll : Statement .autoscroll :=
  fun _ _ _ => ⟨rfl, _, _, rfl, by simp [TableBits.row, HostOp.selector]⟩
theorem noAutoscroll : Statement .noAutoscroll :=
  fun _ _ _ => ⟨rfl, _, _, rfl, by simp [TableBits.row, HostOp.selector]⟩
theorem scrollDisplayLeft : Statement .scrollDisplayLeft :=
  fun _ _ _ => ⟨rfl, _, _, rfl, by simp [TableBits.row, HostOp.selector]⟩
theorem scrollDisplayRight : Statement .scrollDisplayRight :=
  fun _ _ _ => ⟨rfl, _, _, rfl, by simp [TableBits.row, HostOp.selector]⟩
theorem setCursor (col row : Byte) : Statement (.setCursor col row) :=
  fun _ _ _ => ⟨rfl, _, _, rfl, by simp [TableBits.row, HostOp.selector]⟩
theorem createChar (slot : Byte) (glyph : List Byte) : Statement (.createChar slot glyph) :=
  fun _ _ _ => ⟨rfl, _, _, rfl, by simp [TableBits.row, HostOp.selector]⟩
theorem setBacklight (on : Bool) : Statement (.setBacklight on) :=
  fun _ _ _ => ⟨rfl, _, _, rfl, by simp [TableBits.row, HostOp.selector]⟩
theorem write (byte : Byte) : Statement (.write byte) :=
  fun _ _ _ => ⟨rfl, _, _, rfl, by simp [TableBits.row, HostOp.selector]⟩
theorem writeString (bytes : List Byte) : Statement (.writeString bytes) :=
  fun _ _ _ => ⟨rfl, _, _, rfl, by simp [TableBits.row, HostOp.selector]⟩
theorem getCharAt (col row : Byte) : Statement (.getCharAt col row) :=
  fun _ _ _ => ⟨rfl, _, _, rfl, by simp [TableBits.row, HostOp.selector]⟩

end Sys2Proof.Laws.TableBits
end

