-- ==== Sys2Proof/Tests/Slice0.lean ====
section
/-! SUPPORT. Tests: ill-formed instructions refused, words written out from the spec's encodings decoded, one-step checks whose expected
results are vectors of spec/95_test_vectors.md (named in each docstring), and witnesses that the statements' hypotheses can be met. -/

namespace Sys2Proof.Tests

open Sys2Proof.Machine

/-! ## Helpers -/

/-- The state S0 of spec/95_test_vectors.md, with the answers the bus will give. -/
def s0 (writes : List Bool) (reads : List (Option Byte)) : State :=
  { State.reset with
    phase := .ready, entryMode := 0x02, displayControl := 0x04, functionSet := 0x08, cols := 20, rows := 4
    env := { writeAnswers := writes, readAnswers := reads, draws := 0 } }

/-- That many acknowledgements. -/
def acks (n : Nat) : List Bool := List.replicate n true

/-- The instance X27 fresh, with the answers the bus will give. -/
def fresh (writes : List Bool) : State :=
  { State.reset with env := { writeAnswers := writes, readAnswers := [], draws := 0 } }

/-- The Gpio instance of V1. -/
def v1Args : ConstructArgs := ⟨.gpio 12 none 11 [5, 4, 3, 2] none, .activeHigh, false⟩

/-- The configuration of V1. -/
def v1Config : Config := ⟨.gpio ⟨12, none, 11, 5, 4, 3, 2, none⟩, .activeHigh, false⟩

/-- The configuration of TV14. -/
def tv14Config : Config := ⟨.gpio ⟨12, some 10, 11, 5, 4, 3, 2, some 9⟩, .activeLow, false⟩

/-- The Expander mapping of TV7. -/
def tv7 : ExpanderCfg := ⟨0x3F, 4, 5, 6, 7, 0, 1, 2, 3⟩

/-- A check of the state after, false where the machine stops. -/
def holds (o : Result) (p : State → Bool) : Bool :=
  match o with
  | .next t => p t
  | .fault _ => false
  | .refused _ => false

/-- Whether the machine stops with this fault. -/
def faults (o : Result) (f : Fault) : Bool :=
  match o with
  | .fault g => decide (g = f)
  | .next _ => false
  | .refused _ => false

/-- Whether the machine refuses for this reason. -/
def refuses (o : Result) (r : Refusal) : Bool :=
  match o with
  | .refused q => decide (q = r)
  | .next _ => false
  | .fault _ => false

/-- The block's part of the trace after is this, and the host was handed `r`. -/
def runs (o : Result) (r : Ret) (es : List Emission) : Bool :=
  holds o fun t => decide (emissions t.trace = es) && decide (t.ret = r)

/-- `W(x)` of the vectors. -/
def W (x : Byte) : Emission := .busWrite 0x27 x
/-- `D(n)` of the vectors. -/
def D (n : Nat) : Emission := .delay n
/-- `Rd` of the vectors. -/
def Rd : Emission := .busRead 0x27
/-- A nibble of the vectors: `W(a) W(a|04) D(1) W(a) D(37)`. -/
def N (a : Byte) : List Emission := [W a, W (a ||| 0x04), D 1, W a, D 37]

/-! ## Well-formedness: an ill-formed term for each check (R184, XV10) -/

theorem test_wf_cols_zero : (Instr.begin 0 2 .dots5x8).wellFormed = false := by decide
theorem test_wf_cols_41 : (Instr.begin 41 2 .dots5x8).wellFormed = false := by decide
theorem test_wf_rows_zero : (Instr.begin 16 0 .dots5x8).wellFormed = false := by decide
theorem test_wf_rows_five : (Instr.begin 16 5 .dots5x8).wellFormed = false := by decide
theorem test_wf_begin_edges : (Instr.begin 1 1 .dots5x8).wellFormed && (Instr.begin 40 4 .dots5x10).wellFormed = true := by decide
theorem test_wf_glyph_seven : (Instr.createChar 0 [0, 0, 0, 0, 0, 0, 0]).wellFormed = false := by decide
theorem test_wf_glyph_nine : (Instr.createChar 0 [0, 0, 0, 0, 0, 0, 0, 0, 0]).wellFormed = false := by decide
theorem test_wf_glyph_eight : (Instr.createChar 0 [0, 0, 0, 0, 0, 0, 0, 0]).wellFormed = true := by decide

/-! ## Decoding: every constructor by a word written out from R60 to R73, R79 -/

/-- Decoding on the instance X27, backlight off. -/
def reads (f : Format) (bytes : List Byte) : Option Instr :=
  match decode Config.x27 false ⟨f, bytes⟩ with
  | .ok i => some i
  | .error _ => none

theorem test_decode_clearDisplay : reads .cmd8 [0b00000001] = some .clearDisplay := by decide
theorem test_decode_returnHome : reads .cmd8 [0b00000010] = some .returnHome := by decide
theorem test_decode_entryModeSet : reads .cmd8 [0b00000101] = some (.entryModeSet false true) := by decide
theorem test_decode_displayControl : reads .cmd8 [0b00001110] = some (.displayControl true true false) := by decide
theorem test_decode_cursorDisplayShift : reads .cmd8 [0b00011000] = some (.cursorDisplayShift true false) := by decide
theorem test_decode_functionSet : reads .cmd8 [0b00110100] = some (.functionSet true false true) := by decide
theorem test_decode_setCgramAddress : reads .cmd8 [0b01111000] = some (.setCgramAddress 0x38) := by decide
theorem test_decode_setDdramAddress : reads .cmd8 [0b11010100] = some (.setDdramAddress 0x54) := by decide
theorem test_decode_dataByte : reads .data8 [0b01000001] = some (.dataByte 0x41) := by decide
theorem test_decode_wake : reads .nib4 [0b0011] = some .wake := by decide
theorem test_decode_to4bit : reads .nib4 [0b0010] = some .to4bit := by decide
theorem test_decode_portWord : reads .port8 [0b10100101] = some (.portWord 0xA true false true) := by decide
theorem test_decode_begin : reads .hostOp [0b00000, 19, 3, 0] = some (.begin 20 4 .dots5x8) := by decide
theorem test_decode_begin_default : reads .hostOp [0b00000, 15, 0] = some (.begin 16 1 .dots5x8) := by decide
theorem test_decode_command : reads .hostOp [0b00001, 0x14] = some (.command 0x14) := by decide
theorem test_decode_writeData : reads .hostOp [0b00010, 0x41] = some (.writeData 0x41) := by decide
theorem test_decode_clear : reads .hostOp [0b00011] = some .clear := by decide
theorem test_decode_home : reads .hostOp [0b00100] = some .home := by decide
theorem test_decode_display : reads .hostOp [0b00101] = some .display := by decide
theorem test_decode_noDisplay : reads .hostOp [0b00110] = some .noDisplay := by decide
theorem test_decode_cursor : reads .hostOp [0b00111] = some .cursor := by decide
theorem test_decode_noCursor : reads .hostOp [0b01000] = some .noCursor := by decide
theorem test_decode_blink : reads .hostOp [0b01001] = some .blink := by decide
theorem test_decode_noBlink : reads .hostOp [0b01010] = some .noBlink := by decide
theorem test_decode_leftToRight : reads .hostOp [0b01011] = some .leftToRight := by decide
theorem test_decode_rightToLeft : reads .hostOp [0b01100] = some .rightToLeft := by decide
theorem test_decode_autoscroll : reads .hostOp [0b01101] = some .autoscroll := by decide
theorem test_decode_noAutoscroll : reads .hostOp [0b01110] = some .noAutoscroll := by decide
theorem test_decode_scrollDisplayLeft : reads .hostOp [0b01111] = some .scrollDisplayLeft := by decide
theorem test_decode_scrollDisplayRight : reads .hostOp [0b10000] = some .scrollDisplayRight := by decide
theorem test_decode_setCursor : reads .hostOp [0b10001, 5, 2] = some (.setCursor 5 2) := by decide
theorem test_decode_createChar : reads .hostOp [0b10010, 2, 1, 2, 3, 4, 5, 6, 7, 8] = some (.createChar 2 [1, 2, 3, 4, 5, 6, 7, 8]) := by
  decide
theorem test_decode_setBacklight : reads .hostOp [0b10011, 1] = some (.setBacklight true) := by decide
theorem test_decode_write : reads .hostOp [0b10100, 0x48] = some (.write 0x48) := by decide
theorem test_decode_writeString : reads .hostOp [0b10101, 0x48, 0x69] = some (.writeString [0x48, 0x69]) := by decide
theorem test_decode_getCharAt : reads .hostOp [0b10110, 3, 1] = some (.getCharAt 3 1) := by decide

/-- R60, R76: 0x00, a set spare bit. R79, XV10: selector 0x17. R184: an operand too few, one too many, a `u1` of 2. R71, R73. -/
theorem test_decode_refuses :
    [reads .cmd8 [0x00], reads .cmd8 [0b00011001], reads .cmd8 [0b00100010], reads .hostOp [0x17], reads .hostOp [],
      reads .hostOp [0b10001, 5], reads .hostOp [0b00011, 0], reads .hostOp [0b10011, 2], reads .hostOp [0b00000, 40, 1, 0],
      reads .hostOp [0b00000, 15, 1, 2], reads .nib4 [0b0001], reads .port8 [0b00001000]] = List.replicate 12 none := by decide

theorem test_table_word_setCursor : decodeTableWord 8 0b10001 = some (.setCursor 0 0) := by decide
theorem test_table_word_setDdram : decodeTableWord 8 0b10011001 = some (.setDdramAddress 0x19) := by decide
theorem test_table_word_wake : decodeTableWord 4 0b0011 = some .wake := by decide
theorem test_table_word_begin_runs : holds (step (State.reset.withFetchWord 8 0)) (fun t => t.cols == 1) = true := by decide

/-! ## The words the block emits -/

/-- V5's byte and delay, without the host operation. -/
theorem test_clearDisplay : runs (exec .clearDisplay (s0 (acks 6) [])) .nothing (N 0x00 ++ N 0x10 ++ [D 2000]) = true := by decide
/-- MV13. -/
theorem test_returnHome : runs (exec .returnHome (s0 (acks 6) [])) .nothing (N 0x00 ++ N 0x20 ++ [D 2000]) = true := by decide
/-- V6: 0x05. -/
theorem test_entryModeSet : runs (exec (.entryModeSet false true) (s0 (acks 6) [])) .nothing (N 0x00 ++ N 0x50) = true := by decide
/-- MV1: 0x0E; the shadow is not the word's to write. -/
theorem test_displayControl : holds (exec (.displayControl true true false) (s0 (acks 6) []))
    (fun t => decide (emissions t.trace = N 0x00 ++ N 0xE0) && t.displayControl == 0x04) = true := by decide
/-- FV1: 0x14. -/
theorem test_cursorDisplayShift : runs (exec (.cursorDisplayShift false true) (s0 (acks 6) [])) .nothing (N 0x10 ++ N 0x40) = true := by
  decide
/-- IV4: 0x2C. -/
theorem test_functionSet : runs (exec (.functionSet false true true) (s0 (acks 6) [])) .nothing (N 0x20 ++ N 0xC0) = true := by decide
/-- V4: 0x50. -/
theorem test_setCgramAddress : runs (exec (.setCgramAddress 0x10) (s0 (acks 6) [])) .nothing (N 0x50 ++ N 0x00) = true := by decide
/-- V3: 0x99. -/
theorem test_setDdramAddress : runs (exec (.setDdramAddress 0x19) (s0 (acks 6) [])) .nothing (N 0x90 ++ N 0x90) = true := by decide
/-- FV2: 0x41 with RS = 1. -/
theorem test_dataByte : runs (exec (.dataByte 0x41) (s0 (acks 6) [])) .nothing (N 0x41 ++ N 0x11) = true := by decide
/-- V2's second line without its wait, backlight off. -/
theorem test_wake : runs (exec .wake (fresh (acks 3))) .nothing (N 0x30) = true := by decide
/-- V2's fifth line without its wait, backlight off. -/
theorem test_to4bit : runs (exec .to4bit (fresh (acks 3))) .nothing (N 0x20) = true := by decide
/-- TV3's second word, backlight on. -/
theorem test_portWord : runs (exec (.portWord 0x5 true false true) { s0 (acks 1) [] with backlight := true }) .nothing [W 0x5D] = true := by
  decide
/-- R74: no packed word on a Gpio instance. -/
theorem test_portWord_gpio : refuses (exec (.portWord 0x5 true false true) { s0 [] [] with config := v1Config }) .noPort = true := by
  decide

/-! ## The transport -/

/-- TV13: the failure is reported, all three writes and both delays still issued. -/
theorem test_writeNibble_nack :
    (writeNibble 0x3 false (s0 [true, false, true] [])).1 = true ∧
      (writeNibble 0x3 false (s0 [true, false, true] [])).2.trace =
        [.busWrite 0x27 0x30 true, .busWrite 0x27 0x34 false, .delay 1, .busWrite 0x27 0x30 true, .delay 37] := by decide

/-- TV7. -/
theorem test_writeNibble_mapping :
    emissions (writeNibble 0x9 true { fresh (acks 3) with
        config := ⟨.expander tv7, .activeHigh, true⟩, backlight := true }).2.trace =
      [.busWrite 0x3F 0x99, .busWrite 0x3F 0xD9, .delay 1, .busWrite 0x3F 0x99, .delay 37] := by decide

/-- TV16. -/
theorem test_writeNibble_pins :
    (writeNibble 0xC true { fresh [] with config := tv14Config }).2.trace =
      [.pinWrite 12 true, .pinWrite 10 false, .pinWrite 5 false, .pinWrite 4 false, .pinWrite 3 true, .pinWrite 2 true,
        .pinWrite 11 true, .delay 1, .pinWrite 11 false, .delay 37] := by decide

/-- TV18. -/
theorem test_read4bits :
    (read4bits ⟨0x27, 0, 1, 2, 3, 4, 5, 6, 7⟩ true { s0 (acks 3) [some 0x4F] with backlight := true }).nibble = 0x4 ∧
      emissions (read4bits ⟨0x27, 0, 1, 2, 3, 4, 5, 6, 7⟩ true { s0 (acks 3) [some 0x4F] with backlight := true }).state.trace =
        [W 0xFB, W 0xFF, D 1, Rd, W 0xFB, D 37] := by decide

/-! ## begin and construction -/

/-- V2, second part, with the backlight off: the 76 events. -/
theorem test_begin : runs (exec (.begin 20 4 .dots5x8) (fresh (acks 42))) (.status true)
    ([D 40000] ++ N 0x30 ++ [D 4500] ++ N 0x30 ++ [D 150] ++ N 0x30 ++ [D 150] ++ N 0x20 ++ [D 150] ++ N 0x20 ++ N 0x80 ++ N 0x00
      ++ N 0x80 ++ N 0x00 ++ N 0x10 ++ [D 2000] ++ N 0x00 ++ N 0x60 ++ N 0x00 ++ N 0xC0) = true := by decide
/-- IV7: the eighth bus write answers nack. -/
theorem test_begin_nack : holds (exec (.begin 16 2 .dots5x8) (fresh (acks 7 ++ [false] ++ acks 34))) (fun t =>
    t.phase == .uninitialized && t.entryMode == 0x02 && t.displayControl == 0x04 && t.functionSet == 0x08 && t.cols == 16
      && t.rows == 2 && t.opFail && t.faultSeen && t.ret == .status false && t.trace.length == 76) = true := by decide
/-- V1, TV14: the reset events. -/
theorem test_construct_gpio : (construct v1Args).map State.trace = some [.pinMode 12, .pinMode 11, .pinMode 5, .pinMode 4, .pinMode 3,
      .pinMode 2, .pinWrite 12 false, .pinWrite 11 false] ∧
    (construct ⟨.gpio 12 (some 10) 11 [5, 4, 3, 2] (some 9), .activeLow, false⟩).map State.trace = some [.pinMode 12, .pinMode 10,
      .pinMode 11, .pinMode 5, .pinMode 4, .pinMode 3, .pinMode 2, .pinMode 9, .pinWrite 12 false, .pinWrite 10 false,
      .pinWrite 11 false, .pinWrite 9 true] := by decide
/-- XV7, XV8, XV9: refused configurations. -/
theorem test_construct_refuses :
    construct ⟨.expander 0x27 2 1 2 3 4 5 6 7 true, .activeHigh, true⟩ = none ∧
    construct ⟨.gpio 12 none 11 [9, 8, 7, 6, 5, 4, 3, 2] none, .activeHigh, false⟩ = none ∧
    construct ⟨.gpio 12 none 11 [5, 4, 3, 2] none, .activeHigh, true⟩ = none := by decide

/-! ## The other host operations -/

/-- FV7: no post-delay on the raw form. -/
theorem test_command : runs (exec (.command 0x01) (s0 (acks 6) [])) .nothing (N 0x00 ++ N 0x10) = true := by decide
/-- FV2. -/
theorem test_writeData : runs (exec (.writeData 0x41) (s0 (acks 6) [])) (.accepted 1) (N 0x41 ++ N 0x11) = true := by decide
/-- FV5: the fifth bus write answers nack. -/
theorem test_writeData_nack : holds (exec (.writeData 0x41) (s0 [true, true, true, true, false, true] []))
    (fun t => t.ret == .accepted 0 && t.opFail && t.faultSeen && t.trace.length == 10) = true := by decide
/-- V5. -/
theorem test_clear : runs (exec .clear (s0 (acks 6) [])) .nothing (N 0x00 ++ N 0x10 ++ [D 2000]) = true := by decide
/-- XV1. -/
theorem test_clear_misuse : faults (exec .clear State.reset) (.misuse .clear) = true := by decide
/-- MV13. -/
theorem test_home : runs (exec .home (s0 (acks 6) [])) .nothing (N 0x00 ++ N 0x20 ++ [D 2000]) = true := by decide
/-- V7 from 0x00: 0x0C. -/
theorem test_display : holds (exec .display { s0 (acks 6) [] with displayControl := 0x00 })
    (fun t => decide (emissions t.trace = N 0x00 ++ N 0xC0) && t.displayControl == 0x04) = true := by decide
/-- XV5: the shadow is written although every write answers nack. -/
theorem test_noDisplay : holds (exec .noDisplay (s0 (List.replicate 6 false) []))
    (fun t => decide (emissions t.trace = N 0x00 ++ N 0x80) && t.displayControl == 0x00 && t.opFail && t.faultSeen) = true := by decide
/-- MV1. -/
theorem test_cursor : holds (exec .cursor (s0 (acks 6) []))
    (fun t => decide (emissions t.trace = N 0x00 ++ N 0xE0) && t.displayControl == 0x06) = true := by decide
/-- MV3. -/
theorem test_noCursor : holds (exec .noCursor { s0 (acks 6) [] with displayControl := 0x07 })
    (fun t => decide (emissions t.trace = N 0x00 ++ N 0xD0) && t.displayControl == 0x05) = true := by decide
/-- MV2. -/
theorem test_blink : holds (exec .blink { s0 (acks 6) [] with displayControl := 0x06 })
    (fun t => decide (emissions t.trace = N 0x00 ++ N 0xF0) && t.displayControl == 0x07) = true := by decide
/-- MV4. -/
theorem test_noBlink : holds (exec .noBlink { s0 (acks 6) [] with displayControl := 0x05 })
    (fun t => decide (emissions t.trace = N 0x00 ++ N 0xC0) && t.displayControl == 0x04) = true := by decide
/-- MV10. -/
theorem test_leftToRight : holds (exec .leftToRight { s0 (acks 6) [] with entryMode := 0x00 })
    (fun t => decide (emissions t.trace = N 0x00 ++ N 0x60) && t.entryMode == 0x02) = true := by decide
/-- MV8. -/
theorem test_rightToLeft : holds (exec .rightToLeft { s0 (acks 6) [] with entryMode := 0x03 })
    (fun t => decide (emissions t.trace = N 0x00 ++ N 0x50) && t.entryMode == 0x01) = true := by decide
/-- MV7. -/
theorem test_autoscroll : holds (exec .autoscroll (s0 (acks 6) []))
    (fun t => decide (emissions t.trace = N 0x00 ++ N 0x70) && t.entryMode == 0x03) = true := by decide
/-- MV9. -/
theorem test_noAutoscroll : holds (exec .noAutoscroll { s0 (acks 6) [] with entryMode := 0x01 })
    (fun t => decide (emissions t.trace = N 0x00 ++ N 0x40) && t.entryMode == 0x00) = true := by decide
/-- MV11: 0x18. -/
theorem test_scrollDisplayLeft : runs (exec .scrollDisplayLeft (s0 (acks 6) [])) .nothing (N 0x10 ++ N 0x80) = true := by decide
/-- MV12: 0x1C. -/
theorem test_scrollDisplayRight : runs (exec .scrollDisplayRight (s0 (acks 6) [])) .nothing (N 0x10 ++ N 0xC0) = true := by decide
/-- AV5: 200 + 84 = 284, modulo 128 is 0x1C. -/
theorem test_setCursor_wraps : runs (exec (.setCursor 200 3) (s0 (acks 6) [])) .nothing (N 0x90 ++ N 0xC0) = true := by decide
/-- AV10: row 3 clamped to 1 of a two-row display. -/
theorem test_setCursor_clamps : runs (exec (.setCursor 0 3) { s0 (acks 6) [] with rows := 2 }) .nothing (N 0xC0 ++ N 0x00) = true := by
  decide
/-- GV4: slot 10 masked to 2; bits 7..5 of a row sent as given. -/
theorem test_createChar : runs (exec (.createChar 10 [0xFF, 0x00, 0xE0, 0x1F, 0x01, 0x02, 0x03, 0x04]) (s0 (acks 54) [])) .nothing
    (N 0x50 ++ N 0x00 ++ N 0xF1 ++ N 0xF1 ++ N 0x01 ++ N 0x01 ++ N 0xE1 ++ N 0x01 ++ N 0x11 ++ N 0xF1 ++ N 0x01 ++ N 0x11
      ++ N 0x01 ++ N 0x21 ++ N 0x01 ++ N 0x31 ++ N 0x01 ++ N 0x41) = true := by decide +kernel
/-- KV8. -/
theorem test_setBacklight : holds (exec (.setBacklight true) (fresh (acks 1)))
    (fun t => decide (emissions t.trace = [W 0x08]) && t.backlight && t.phase == .uninitialized) = true := by decide
/-- TV12: the lamp of an active-low expander is on at level 0. -/
theorem test_setBacklight_activeLow :
    runs (exec (.setBacklight true) { fresh (acks 1) with config := { Config.x27 with polarity := .activeLow } }) .nothing [W 0x00]
      = true := by decide
/-- KV4. -/
theorem test_write : runs (exec (.write 0x48) (s0 (acks 6) [])) (.accepted 1) (N 0x41 ++ N 0x81) = true := by decide
/-- KV2. -/
theorem test_writeString_empty : runs (exec (.writeString []) (s0 [] [])) (.accepted 0) [] = true := by decide
/-- KV3: the eighth bus write answers nack, inside the second byte. -/
theorem test_writeString_nack : runs (exec (.writeString [0x41, 0x42, 0x43]) (s0 (acks 7 ++ [false] ++ acks 10) [])) (.accepted 2)
    (N 0x41 ++ N 0x11 ++ N 0x41 ++ N 0x21 ++ N 0x41 ++ N 0x31) = true := by decide
/-- KV5. -/
theorem test_getCharAt :
    runs (exec (.getCharAt 0 0) { s0 (acks 12) [some 0x4F, some 0x1F] with backlight := true }) (.char true 0x41)
      (N 0x88 ++ N 0x08 ++ [W 0xFB, W 0xFF, D 1, Rd, W 0xFB, D 37, W 0xFB, W 0xFF, D 1, Rd, W 0xFB, D 37]) = true := by decide
/-- KV6: a failed read. -/
theorem test_getCharAt_fails : holds (exec (.getCharAt 3 1) (s0 (acks 12) [some 0x47, none])) (fun t =>
    (match t.ret with
      | .char ok _ => !ok
      | _ => false)
      && t.opFail && t.faultSeen
      && decide (emissions t.trace =
        N 0xC0 ++ N 0x30 ++ [W 0xF3, W 0xF7, D 1, Rd, W 0xF3, D 37, W 0xF3, W 0xF7, D 1, Rd, W 0xF3, D 37])) = true := by decide

/-! ## Witnesses: states and operands that meet the hypotheses of each statement, clause by clause -/

/-- The Expander of X27. -/
def x27 : ExpanderCfg := ⟨0x27, 0, 1, 2, 3, 4, 5, 6, 7⟩

/-- S0 of the instance X27 without `READ_SUPPORTED`. -/
def s0NoRead : State := { s0 [] [] with config := { Config.x27 with readSupported := false } }

/-- S0 of the Gpio instance of V1. -/
def s0Gpio : State := { s0 [] [] with config := v1Config }

theorem witness_ExpanderConstructionEmitsNothing :
    construct x27Args = some State.reset ∧ State.reset.config.hasPort = true := by decide
theorem witness_GpioConstructionSetsUpThePins :
    ([12] ++ (some 10).toList ++ [11, 5, 4, 3, 2] ++ (some 9).toList).Nodup ∧
      ([12] ++ (none : Option Nat).toList ++ [11, 5, 4, 3, 2] ++ (none : Option Nat).toList).Nodup := by decide
/-- The edges of R203: the last address and position, the first beyond, a clash, reading asked of what cannot; pins four, a clash. -/
theorem witness_ConstructionRefusesInvalidConfigurations :
    construct ⟨.expander 0x7F 0 1 2 3 4 5 6 7 false, .activeLow, false⟩ ≠ none ∧
    construct ⟨.expander 0x80 0 1 2 3 4 5 6 7 true, .activeHigh, true⟩ = none ∧
    construct ⟨.expander 0x27 0 1 2 3 4 5 6 8 true, .activeHigh, true⟩ = none ∧
    construct ⟨.expander 0x27 0 1 2 3 4 5 6 6 true, .activeHigh, true⟩ = none ∧
    construct ⟨.expander 0x27 0 1 2 3 4 5 6 7 false, .activeHigh, true⟩ = none ∧
    construct v1Args ≠ none ∧ construct ⟨.gpio 12 (some 12) 11 [5, 4, 3, 2] none, .activeHigh, false⟩ = none ∧
    construct ⟨.gpio 12 none 11 [5, 4, 3] none, .activeHigh, false⟩ = none := by decide
theorem witness_ConstructionMeetsTheInvariant : ∃ s t, construct x27Args = some s ∧ construct v1Args = some t := ⟨_, _, rfl, rfl⟩
theorem witness_StepKeepsTheInvariant :
    (State.reset.withFetchWord 8 0x13).Inv ∧ ∃ t, step (State.reset.withFetchWord 8 0x13) = .next t :=
  ⟨by constructor <;> decide, _, rfl⟩
theorem witness_StepRunsTheDecodedRequest :
    (State.reset.withFetchWord 8 0x13).requests = ⟨.hostOp, [0x13, 0x00]⟩ :: [] ∧
      decode State.reset.config State.reset.backlight ⟨.hostOp, [0x13, 0x00]⟩ = .ok (.setBacklight false) := ⟨by decide, rfl⟩
theorem witness_StepIdlesOrRefuses :
    State.reset.requests = [] ∧ (State.reset.withFetchWord 8 0x17).requests = ⟨.hostOp, [0x17]⟩ :: [] ∧
      decode State.reset.config State.reset.backlight ⟨.hostOp, [0x17]⟩ = .error .unassignedSelector := ⟨rfl, by decide, rfl⟩
theorem witness_PresentedTableWordRuns :
    decodeTableWord 8 0x13 = some (.setBacklight false) ∧ decodeTableWord 4 0x2 = some .to4bit ∧
      decodeTableWord 8 0xFF = some (.setDdramAddress 0x7F) := by decide
theorem witness_SelectorsNameTheOperations : (0x17 : Byte) ≤ 0x17 ∧ (0x17 : Byte) ≤ 0xFF := by decide
theorem witness_DecodeEncodeRoundTrip :
    Config.x27.valid = true ∧ (Instr.begin 40 4 .dots5x10).wellFormed = true ∧ (Instr.begin 1 1 .dots5x8).wellFormed = true ∧
      (Instr.begin 40 4 .dots5x10).existsOn Config.x27 = true ∧ (Instr.getCharAt 0xFF 0xFF).existsOn Config.x27 = true ∧
      (Instr.portWord 0xF true true true).existsOn Config.x27 = true := by decide
theorem witness_DecodedWordIsItsEncoding :
    Config.x27.valid = true ∧ decode Config.x27 true ⟨.port8, [0xFF]⟩ = .ok (.portWord 0xF true true true) ∧
      decode Config.x27 true ⟨.hostOp, [0x00, 39, 3]⟩ = .ok (.begin 40 4 .dots5x8) := ⟨by decide, rfl, rfl⟩
theorem witness_MisuseIsExactlyBeforeBegin :
    (Instr.getCharAt 0 0).hostOp = some .getCharAt ∧ HostOp.getCharAt.needsReady = true ∧ (Instr.getCharAt 0 0).wellFormed = true ∧
      (Instr.getCharAt 0 0).existsOn State.reset.config = true ∧ State.reset.phase = .uninitialized ∧
      ∃ f, exec .clear State.reset = .fault f := ⟨rfl, rfl, rfl, rfl, rfl, _, rfl⟩
/-- Both sides of the equivalence, by each check of `wellFormed` and `existsOn`. -/
theorem witness_RefusedExactlyWhenIllTyped :
    (∃ r, exec (.begin 0 1 .dots5x8) State.reset = .refused r) ∧ (∃ r, exec (.createChar 0 []) State.reset = .refused r) ∧
    (∃ r, exec (.getCharAt 0 0) s0NoRead = .refused r) ∧ (∃ r, exec (.portWord 0 false false false) s0Gpio = .refused r) ∧
    (Instr.begin 1 1 .dots5x8).wellFormed = true ∧ (Instr.begin 1 1 .dots5x8).existsOn State.reset.config = true :=
  ⟨⟨_, rfl⟩, ⟨_, rfl⟩, ⟨_, rfl⟩, ⟨_, rfl⟩, rfl, rfl⟩
theorem witness_EveryLegalInstructionCompletes :
    (Instr.createChar 0 [0, 0, 0, 0, 0, 0, 0, 0]).wellFormed = true ∧
      (Instr.createChar 0 [0, 0, 0, 0, 0, 0, 0, 0]).existsOn s0Gpio.config = true ∧ s0Gpio.phase = .ready ∧
      (Instr.setBacklight true).wellFormed = true ∧ (Instr.setBacklight true).existsOn State.reset.config = true ∧
      ∀ op, (Instr.setBacklight true).hostOp = some op → op.needsReady = false :=
  ⟨rfl, rfl, rfl, rfl, rfl, fun _ h => by cases h; rfl⟩
theorem witness_PortWordCarriesItsFields :
    (s0 [] []).config.transport = .expander x27 ∧ (s0 [] []).config.valid = true ∧
      s0Gpio.config.transport = .gpio ⟨12, none, 11, 5, 4, 3, 2, none⟩ := by decide
theorem witness_NibbleOnTheBus : (s0 [] []).config.transport = .expander x27 ∧ (s0 [] []).config.valid = true := by decide
theorem witness_NibbleOnThePins : s0Gpio.config.transport = .gpio ⟨12, none, 11, 5, 4, 3, 2, none⟩ := by decide
theorem witness_StrobeHoldsItsLines : (s0 [] []).config.valid = true ∧ (s0 [] []).config.hasPort = true ∧
    s0Gpio.config.valid = true ∧ s0Gpio.config.hasPort = false ∧ (Lines.mk true true false true true true true true).e = false := by decide
theorem witness_ByteIsTwoStrobes : (s0 [] []).config.valid = true ∧ (s0 [] []).config.hasPort = true ∧ s0Gpio.config.valid = true := by
  decide
theorem witness_ReadStrobeOnTheBus :
    (s0 (acks 3) [some 0x4F]).config.transport = .expander x27 ∧ (s0 (acks 3) [some 0x4F]).config.valid = true ∧
      (read4bits x27 true (s0 (acks 3) [some 0x4F])).failed = false := by decide
theorem witness_SetBacklightFlushesTheLevel :
    State.reset.config.transport = .expander x27 ∧ s0Gpio.config.transport = .gpio ⟨12, none, 11, 5, 4, 3, 2, none⟩ := by decide
theorem witness_CommandSendsTheByteRaw : State.reset.phase = .uninitialized ∧ (s0 [] []).phase = .ready := by decide
theorem witness_WriteDataReturnsOneOrZero : State.reset.phase = .uninitialized ∧ (s0 [] []).phase = .ready := by decide
theorem witness_WriteIsWriteData : State.reset.phase = .uninitialized ∧ s0Gpio.phase = .ready := by decide
theorem witness_WriteStringCountsAcceptedBytes : State.reset.phase = .uninitialized ∧ s0Gpio.phase = .ready := by decide
theorem witness_ClearAndHomeWaitTwoMilliseconds : State.reset.phase = .uninitialized ∧ s0Gpio.phase = .ready := by decide
theorem witness_ScrollsSendTheShiftCommand : State.reset.phase = .uninitialized ∧ s0Gpio.phase = .ready := by decide
theorem witness_DisplaySettersUpdateThenSend : State.reset.phase = .uninitialized ∧ s0Gpio.phase = .ready := by decide
theorem witness_EntrySettersUpdateThenSend : State.reset.phase = .uninitialized ∧ s0Gpio.phase = .ready := by decide
theorem witness_RepeatedSetterReconverges : ∃ t u, exec .noDisplay (s0 [] []) = .next t ∧ exec .autoscroll s0Gpio = .next u :=
  ⟨_, _, rfl, rfl⟩
theorem witness_OffThenOnRestoresTheFlag :
    (s0 [] []).phase = .ready ∧ (s0 [] []).displayControl &&& 0x04 ≠ 0 ∧ (s0 [] []).displayControl &&& 0x02 = 0 := by decide
theorem witness_SetCursorAddressesTheCell :
    State.reset.phase = .uninitialized ∧ s0Gpio.phase = .ready ∧ 1 ≤ s0Gpio.rows ∧ s0Gpio.rows ≤ 4 ∧
      1 ≤ ({ s0Gpio with rows := 1 } : State).rows := by decide
/-- The row that is the last, and the first past it, at one row and at four. -/
theorem witness_AddressArithmetic : (1 ≤ 1 ∧ 1 ≤ 4 ∧ (1 : Byte).toNat ≥ 1) ∧ (1 ≤ 4 ∧ 4 ≤ 4 ∧ (4 : Byte).toNat ≥ 4) := by decide
theorem witness_CreateCharSendsNineBytes :
    ([1, 2, 3, 4, 5, 6, 7, 8] : List Byte).length = 8 ∧ ([1, 2, 3, 4, 5, 6, 7] : List Byte).length ≠ 8 ∧
      ([1, 2, 3, 4, 5, 6, 7, 8, 9] : List Byte).length ≠ 8 ∧ s0Gpio.phase = .ready := by decide
/-- Each clause: an instance that cannot read, one before `begin`, and both outcomes of a read. -/
theorem witness_GetCharAtReadsTwoNibbles :
    s0NoRead.config.canRead = false ∧ s0Gpio.config.canRead = false ∧ State.reset.config.canRead = true ∧
      State.reset.phase = .uninitialized ∧ (s0 [] []).config.transport = .expander x27 ∧
      (s0 [] []).config.readSupported = true ∧ (s0 [] []).phase = .ready ∧ 1 ≤ (s0 [] []).rows ∧ (s0 [] []).rows ≤ 4 ∧
      holds (exec (.getCharAt 0 0) (s0 (acks 12) [some 0x47, some 0x17])) (fun t => !anyFailed t.trace) = true ∧
      holds (exec (.getCharAt 0 0) (s0 (acks 12) [some 0x47, none])) (fun t => anyFailed t.trace) = true := by decide
theorem witness_BeginRunsTheTenSteps : 1 ≤ 1 ∧ 40 ≤ 40 ∧ 4 ≤ 4 ∧ State.reset.phase = .uninitialized ∧
    holds (exec (.begin 40 4 .dots5x10) (fresh (acks 42))) (fun t => !anyFailed t.trace) = true ∧
    holds (exec (.begin 1 1 .dots5x8) (fresh (acks 41 ++ [false]))) (fun t => anyFailed t.trace) = true := by decide
theorem witness_HandshakeOnTheLines : 1 ≤ 20 ∧ 20 ≤ 40 ∧ 1 ≤ 4 ∧ 4 ≤ 4 ∧ State.reset.phase = .uninitialized ∧
    State.reset.config.valid = true ∧ State.reset.config.transport = .expander x27 := by decide
/-- The last legal operands and the first beyond them. -/
theorem witness_BeginInReadyFailsAtOnce :
    (1 ≤ 1 ∧ 1 ≤ 40 ∧ 1 ≤ 4) ∧ (1 ≤ 40 ∧ 40 ≤ 40 ∧ 4 ≤ 4) ∧ (s0 [] []).phase = .ready ∧
      ((0 = 0 ∨ 40 < 0) ∧ (41 = 0 ∨ 40 < 41) ∧ (5 = 0 ∨ 4 < 5)) := by decide
/-- Legal operands at both ends, the first beyond them, and in each idle state an instruction that completes, faults or is refused. -/
theorem witness_HandshakeMachineIsBegin :
    1 ≤ 40 ∧ 40 ≤ 40 ∧ 1 ≤ 1 ∧ 1 ≤ 4 ∧ State.reset.phase = .uninitialized ∧ (0 = 0 ∨ 40 < 0) ∧ (41 = 0 ∨ 40 < 41) ∧ (5 = 0 ∨ 4 < 5) ∧
      (Instr.setBacklight true).hostOp ≠ some .begin ∧ (∃ t, exec (.setBacklight true) State.reset = .next t) ∧
      Instr.clear.hostOp ≠ some .begin ∧ exec .clear State.reset = .fault (.misuse .clear) ∧
      exec (.createChar 0 []) (s0 [] []) = .refused (.illTyped .illTypedOperands) :=
  ⟨by decide, by decide, by decide, by decide, rfl, by decide, by decide, by decide, by decide, ⟨_, rfl⟩, by decide, rfl, rfl⟩
/-- Where a run of the handshake machine ends, none where it is refused or faults. -/
def seqEnd (o : SeqResult) : Option (SeqState × Phase × Ret × Bool) :=
  match o with
  | .next (p, t) => some (p, t.phase, t.ret, t.opFail)
  | .fault _ => none
  | .refused _ => none
/-- R124, R127: a run whose last write is refused ends in `I0` and waits there. -/
theorem test_failed_handshake_waits_in_i0 :
    seqEnd (seqRun (some (.begin 16 2 .dots5x8) :: List.replicate 14 none) (.i0, fresh (acks 41 ++ [false])))
      = some (.i0, .uninitialized, .status false, true) := by decide
/-- A `begin` that succeeds, and an operation in Ready. -/
theorem witness_OnlyASuccessfulBeginMakesReady :
    State.reset.phase = .uninitialized ∧
      holds (exec (.begin 16 2 .dots5x8) (fresh (acks 42))) (fun t => t.phase == .ready) = true ∧
      (s0 [] []).phase = .ready ∧ ∃ t, exec .clear (s0 [] []) = .next t := ⟨rfl, by decide, rfl, _, rfl⟩
theorem witness_RegistersAreWrittenOnlyByTheirOperations :
    holds (exec (.setBacklight true) State.reset) (fun t => t.backlight != State.reset.backlight) = true ∧
    holds (exec .autoscroll (s0 [] [])) (fun t => t.entryMode != 0x02) = true ∧
    holds (exec .cursor (s0 [] [])) (fun t => t.displayControl != 0x04) = true ∧
    holds (exec (.begin 16 2 .dots5x8) State.reset) (fun t => t.functionSet != 0x00 && t.cols != 1) = true := by decide
theorem witness_FailureRecordFollowsTheAnswers :
    (∃ t, exec .wake State.reset = .next t) ∧ Instr.wake.hostOp = none ∧ (∃ t, exec .clear (s0 [] []) = .next t) ∧
      Instr.clear.hostOp ≠ none ∧ (∃ t, exec (.begin 16 2 .dots5x8) (s0 [] []) = .next t) ∧ s0Gpio.config.hasPort = false :=
  ⟨⟨_, rfl⟩, rfl, ⟨_, rfl⟩, by decide, ⟨_, rfl⟩, rfl⟩
theorem witness_AnswersDoNotSteerTheBlock :
    (∃ t, exec .clear (s0 [] []) = .next t) ∧ Instr.clear.hostOp ≠ some .begin := ⟨⟨_, rfl⟩, by decide⟩
theorem witness_UncapturedRegistersAreNeverRead :
    State.reset.phase = .uninitialized ∧ (∃ t, exec (.begin 16 2 .dots5x8) State.reset = .next t) ∧
      (∃ t, exec (.setBacklight true) State.reset = .next t) ∧ (Instr.setBacklight true).hostOp ≠ some .begin :=
  ⟨rfl, ⟨_, rfl⟩, ⟨_, rfl⟩, by decide⟩
theorem witness_BacklightRidesOnEveryWrite :
    (s0 [] []).config.transport = .expander x27 ∧ (s0 [] []).config.valid = true ∧ Instr.clear.hostOp ≠ some .setBacklight ∧
      ∃ t, exec .clear (s0 [] []) = .next t := ⟨by decide, by decide, by decide, _, rfl⟩
theorem witness_InstanceTouchesOnlyItsTransport :
    (s0 [] []).config.transport = .expander x27 ∧ s0Gpio.config.transport = .gpio ⟨12, none, 11, 5, 4, 3, 2, none⟩ ∧
      ∃ t u, exec .clear (s0 [] []) = .next t ∧ exec .clear s0Gpio = .next u := ⟨by decide, by decide, _, _, rfl, rfl⟩
theorem witness_NamedOperationsSendCatalogueBytes :
    s0Gpio.phase = .ready ∧ s0Gpio.config.valid = true ∧ Instr.noBlink.hostOp ≠ none ∧
      Instr.noBlink.hostOp ∉ [some HostOp.begin, some .command, some .getCharAt] ∧ s0Gpio.entryMode ≤ 0x03 ∧
      s0Gpio.displayControl ≤ 0x07 ∧ ∃ t, exec .noBlink s0Gpio = .next t :=
  ⟨rfl, by decide, by decide, by decide, by decide, by decide, _, rfl⟩
theorem witness_GetCharAtMakesFourStrobes :
    (s0 [] []).phase = .ready ∧ (s0 [] []).config.valid = true ∧ ∃ t, exec (.getCharAt 0 0) (s0 [] []) = .next t :=
  ⟨rfl, by decide, _, rfl⟩
/-- An acknowledged write, one that is not, and two pins. -/
theorem witness_LatchFollowsAcknowledgedWrites :
    (busWrite 0x27 0x08 (s0 [true] [])).1 = false ∧ (busWrite 0x27 0x08 (s0 [false] [])).1 = true ∧ 11 ≠ 12 := by decide

/-- An operation before `begin`; one in Ready that fails and one that does not; each returned value. -/
theorem witness_ErrorKindsSurfaceAsTabled :
    (Instr.clear.hostOp = some .clear ∧ HostOp.clear.needsReady = true ∧ Instr.clear.wellFormed = true ∧
      Instr.clear.existsOn State.reset.config = true ∧ State.reset.phase = .uninitialized) ∧
    holds (exec (.writeData 0x41) (s0 (acks 5 ++ [false]) [])) (fun t => anyFailed t.trace && decide (t.ret = .accepted 0)) = true ∧
    holds (exec (.write 0x41) (s0 (acks 6) [])) (fun t => !anyFailed t.trace && decide (t.ret = .accepted 1)) = true ∧
    holds (exec (.writeString [0x41, 0x42]) (s0 (acks 11 ++ [false]) []))
      (fun t => anyFailed t.trace && decide (t.ret = .accepted 1)) = true ∧
    holds (exec .home (s0 [false] [])) (fun t => t.opFail && decide (t.ret = .nothing)) = true ∧
    holds (exec (.begin 16 2 .dots5x8) (s0 [] [])) (fun t => decide (t.ret = .status false)) = true ∧
    holds (exec (.begin 16 2 .dots5x8) (fresh (acks 41 ++ [false])))
      (fun t => anyFailed t.trace && decide (t.ret = .status false)) = true ∧
    holds (exec (.getCharAt 0 0) (s0 (acks 12) [some 0x47, some 0x17])) (fun t => decide (t.ret = .char true 0x41)) = true := by decide
/-- The row that is the last, the first past it, and the slots 7 and 8. -/
theorem witness_OutOfRangeLeavesNoMark :
    (s0 [] []).phase = .ready ∧ (s0 [] []).config.canRead = true ∧ 1 ≤ (s0 [] []).rows ∧ (s0 [] []).rows ≤ 4 ∧
      ¬(s0 [] []).rows ≤ (3 : Byte).toNat ∧ (s0 [] []).rows ≤ (4 : Byte).toNat ∧
      ([1, 2, 3, 4, 5, 6, 7, 8] : List Byte).length = 8 ∧ ¬8 ≤ (7 : Byte).toNat ∧ 8 ≤ (8 : Byte).toNat ∧
      (Instr.setCursor 0 4).outOfRange (s0 [] []).rows = true := by decide
/-- The first transition after the `begin`, and the last before it is done. -/
theorem witness_ConcurrentEntryIsRefused :
    (1 ≤ 16 ∧ 16 ≤ 40 ∧ 1 ≤ 2 ∧ 2 ≤ 4) ∧ State.reset.phase = .uninitialized ∧ 0 ≤ 10 ∧ 10 ≤ 10 := by decide

end Sys2Proof.Tests
end

/-! Obligation O53 (spec/00_scope.md R8, spec/41_framing.md R113). `SendsCatalogueBytes s t` says what reaches the lines between two
states. It is reflexive and transitive, and each shared operation (`send`, `wait`, lists of data bytes, the backlight flush) has it;
an operation of the host is a composition of these. -/

namespace Sys2Proof

/-! ## The bytes of the catalogue decode (R60) -/

theorem decodeCmd8_ddramByte (a : BitVec 7) : decodeCmd8 (ddramByte a) = .ok (.setDdramAddress a) := by
  revert a; decide

theorem decodeCmd8_cgramByte (a : BitVec 6) : decodeCmd8 (cgramByte a) = .ok (.setCgramAddress a) := by
  revert a; decide

theorem decodeCmd8_shiftByte (moveDisplay right : Bool) :
    decodeCmd8 (shiftByte moveDisplay right) = .ok (.cursorDisplayShift moveDisplay right) := by
  revert moveDisplay right; decide

theorem decodeCmd8_displayControlByte {v : Byte} (hv : v ≤ 0x07) :
    decodeCmd8 (displayControlByte v) =
      .ok (.displayControl (hasFlag v DC_DISPLAY) (hasFlag v DC_CURSOR) (hasFlag v DC_BLINK)) := by
  revert v; decide

theorem decodeCmd8_entryModeByte {v : Byte} (hv : v ≤ 0x03) :
    decodeCmd8 (entryModeByte v) = .ok (.entryModeSet (hasFlag v EM_INC) (hasFlag v EM_SHIFT)) := by
  revert v; decide

/-! ## A valid configuration has distinct lines (R19, R20) -/

theorem Config.valid_expander {c : Config} {x : ExpanderCfg} (hc : c.valid = true) (ht : c.transport = .expander x) :
    (expanderPositions x).Nodup := by
  simpa [Config.valid, ht] using hc

theorem Config.valid_gpio {c : Config} {g : GpioCfg} (hc : c.valid = true) (ht : c.transport = .gpio g) :
    (gpioPins g).Nodup := by
  simp only [Config.valid, ht, Bool.and_eq_true, decide_eq_true_eq] at hc
  exact hc.1

end Sys2Proof

namespace Sys2Proof.Machine

/-- Setting and clearing flags keeps a shadow within its `k` low bits (R156, R21). -/
theorem updateFlags_lt {k : Nat} {shadow setMask : Byte} (h : shadow.toNat < 2 ^ k) (hm : setMask.toNat < 2 ^ k) (clrMask : Byte) :
    (updateFlags shadow setMask clrMask).toNat < 2 ^ k := by
  rw [updateFlags, BitVec.toNat_and, BitVec.toNat_or]
  exact Nat.and_le_left.trans_lt (Nat.or_lt_two_pow h hm)

theorem byteStrobes_eq_extract (rs : Bool) (b : Byte) :
    byteStrobes rs b = [⟨b.extractLsb' 4 4, rs, false⟩, ⟨b.extractLsb' 0 4, rs, false⟩] := by
  have hhi : highNibble b = b.extractLsb' 4 4 := by revert b; decide
  have hlo : lowNibble b = b.extractLsb' 0 4 := by revert b; decide
  rw [byteStrobes, hhi, hlo]

/-- The backlight flush makes no strobe: E is written low or is another pin (R96, R97). -/
theorem strobesOf_backlight {c : Config} (hc : c.valid = true) (on : Bool) :
    StrobesOf c.transport (backlightEmissions c on) [] := by
  intro l hl
  unfold backlightEmissions
  cases ht : c.transport with
  | expander x =>
    simp [strobes, risingEdges, linesAfterAll, linesAfter, portLines_portByte (c.valid_expander hc ht), hl]
  | gpio g =>
    have hg := c.valid_gpio hc ht
    cases hb : g.pinBl with
    | none => simp [hb, strobes, risingEdges, linesAfterAll, hl]
    | some p =>
      have hne : p ≠ g.pinE := by
        rintro rfl
        simp [gpioPins, hb, List.nodup_append] at hg
      simp [hb, strobes, risingEdges, linesAfterAll, linesAfter, pinLines, drivenBit, hne, hl]

/-! ## What reaches the lines between two states -/

/-- From `s` to `t` the lines saw the two strobes per byte of some list of bytes (RS beside each), E left low, and each command byte
among them is a row of the catalogue. -/
def SendsCatalogueBytes (s t : State) : Prop :=
  t.config = s.config ∧ ∃ (evs : List Event) (bytes : List (Bool × Byte)), t.trace = s.trace ++ evs ∧
    Strobes s.config evs (bytes.flatMap fun p => byteStrobes p.1 p.2) ∧
    ∀ p ∈ bytes, p.1 = false → ∃ j, decodeCmd8 p.2 = .ok j

theorem SendsCatalogueBytes.refl (s : State) : SendsCatalogueBytes s s :=
  ⟨rfl, [], [], by simp, StrobesOf.nil _, by simp⟩

theorem SendsCatalogueBytes.trans {s t u : State} (h1 : SendsCatalogueBytes s t) (h2 : SendsCatalogueBytes t u) :
    SendsCatalogueBytes s u := by
  obtain ⟨c1, evs1, bytes1, t1, st1, cat1⟩ := h1
  obtain ⟨c2, evs2, bytes2, t2, st2, cat2⟩ := h2
  rw [c1] at st2
  refine ⟨c2.trans c1, evs1 ++ evs2, bytes1 ++ bytes2, by simp [t1, t2], ?_, ?_⟩
  · rw [strobes_iff (emissions_append evs1 evs2), List.flatMap_append]
    exact StrobesOf.append st1 st2
  · intro p hp
    exact (List.mem_append.1 hp).elim (cat1 p) (cat2 p)

/-- The configuration is immutable (R10), so a valid one stays valid. -/
theorem SendsCatalogueBytes.valid {s t : State} (h : SendsCatalogueBytes s t) (hc : s.config.valid = true) :
    t.config.valid = true := by
  rw [h.1, hc]

/-- Events that make no strobe send no byte. -/
theorem SendsCatalogueBytes.of_no_strobe {s t : State} {evs : List Event} (hconf : t.config = s.config)
    (htr : t.trace = s.trace ++ evs) (h : Strobes s.config evs []) : SendsCatalogueBytes s t :=
  ⟨hconf, evs, [], htr, h, by simp⟩

theorem wait_sendsCatalogueBytes (us : Nat) (s : State) : SendsCatalogueBytes s (wait us s) :=
  .of_no_strobe rfl rfl (StrobesOf.delay _ us)

/-- One byte: any as data, one of the catalogue as a command (R110). -/
theorem send_sendsCatalogueBytes {s : State} (hc : s.config.valid = true) (b : Byte) (rs : Bool)
    (hb : rs = false → ∃ j, decodeCmd8 b = .ok j) : SendsCatalogueBytes s (send b rs s) := by
  obtain ⟨evs, h, m⟩ := send_performs b rs s
  refine ⟨h.config, evs, [(rs, b)], h.trace, ?_, by simpa using hb⟩
  rw [strobes_iff m]
  simpa using strobesOf_byte hc s.backlight rs b

theorem sendCommand_sendsCatalogueBytes {s : State} (hc : s.config.valid = true) {b : Byte} {j : Instr}
    (hb : decodeCmd8 b = .ok j) : SendsCatalogueBytes s (sendCommand b s) :=
  send_sendsCatalogueBytes hc b false fun _ => ⟨j, hb⟩

theorem sendData_sendsCatalogueBytes {s : State} (hc : s.config.valid = true) (b : Byte) :
    SendsCatalogueBytes s (send b true s) :=
  send_sendsCatalogueBytes hc b true nofun

theorem sendAll_sendsCatalogueBytes {s : State} (hc : s.config.valid = true) (bytes : List Byte) :
    SendsCatalogueBytes s (sendAll bytes s) := by
  induction bytes generalizing s with
  | nil => exact .refl s
  | cons b bs ih =>
    have h := sendData_sendsCatalogueBytes hc b
    exact h.trans (ih (h.valid hc))

theorem sendString_sendsCatalogueBytes {s : State} (hc : s.config.valid = true) (bytes : List Byte) (count : Nat) :
    SendsCatalogueBytes s (sendString bytes count s).2 := by
  induction bytes generalizing s count with
  | nil => exact .refl s
  | cons b bs ih =>
    have h := sendData_sendsCatalogueBytes hc b
    exact h.trans (ih (h.valid hc) _)

theorem transportSetBacklight_sendsCatalogueBytes {s : State} (hc : s.config.valid = true) (on : Bool) :
    SendsCatalogueBytes s (transportSetBacklight on s).2 := by
  obtain ⟨evs, -, h, m⟩ := transportSetBacklight_emits on s
  refine .of_no_strobe h.config (by rw [h.state]) ?_
  rw [strobes_iff m]
  exact strobesOf_backlight hc on

/-! ## Host operations in Ready -/

/-- A host operation that passes the `misuse` check, runs `f` and returns sends what `f` sends. -/
theorem SendsCatalogueBytes.of_requireReady {op : HostOp} {s t : State} {f : State → State} {v : State → Ret}
    (hs : s.phase = .ready) (hc : s.config.valid = true)
    (hf : ∀ u : State, u.config.valid = true → SendsCatalogueBytes u (f u))
    (h : requireReady op s (fun u => returning (v u) (f u)) = .next t) : SendsCatalogueBytes s t := by
  rw [requireReady_ready op hs] at h
  cases h
  exact hf (clearOpFail s) hc

section
variable {s t : State} (hs : s.phase = .ready) (hc : s.config.valid = true)
include hs hc

/-- `clear` and `home` (R140, R141): a command byte and its wait. -/
theorem commandWait_sendsCatalogueBytes {op : HostOp} {b : Byte} {us : Nat} {j : Instr} (hb : decodeCmd8 b = .ok j)
    (h : requireReady op s (fun u => returning .nothing (wait us (sendCommand b u))) = .next t) : SendsCatalogueBytes s t :=
  .of_requireReady hs hc (f := fun u => wait us (sendCommand b u))
    (fun _ hu => (sendCommand_sendsCatalogueBytes hu hb).trans (wait_sendsCatalogueBytes us _)) h

/-- The scrolls (R152, R153): one command byte. -/
theorem command_sendsCatalogueBytes {op : HostOp} {b : Byte} {j : Instr} (hb : decodeCmd8 b = .ok j)
    (h : requireReady op s (fun u => returning .nothing (sendCommand b u)) = .next t) : SendsCatalogueBytes s t :=
  .of_requireReady hs hc (f := sendCommand b) (fun _ hu => sendCommand_sendsCatalogueBytes hu hb) h

theorem execSetCursor_sendsCatalogueBytes {col row : Byte} (h : execSetCursor col row s = .next t) : SendsCatalogueBytes s t :=
  .of_requireReady hs hc (f := fun u => sendCommand (ddramByte (ddramAddress u.rows col row)) u)
    (fun _ hu => sendCommand_sendsCatalogueBytes hu (decodeCmd8_ddramByte _)) h

theorem mutateDisplay_sendsCatalogueBytes (hd : s.displayControl ≤ 0x07) {op : HostOp} {setMask clrMask : Byte}
    (hm : setMask ≤ 0x07) (h : mutateDisplay op setMask clrMask s = .next t) : SendsCatalogueBytes s t := by
  have hv : updateFlags s.displayControl setMask clrMask ≤ 0x07 :=
    Nat.le_of_lt_succ (updateFlags_lt (k := 3) (Nat.lt_succ_of_le hd) (Nat.lt_succ_of_le hm) clrMask)
  rw [mutateDisplay, requireReady_ready op hs] at h
  cases h
  exact sendCommand_sendsCatalogueBytes (s := { clearOpFail s with displayControl := _ }) hc (decodeCmd8_displayControlByte hv)

theorem mutateEntry_sendsCatalogueBytes (he : s.entryMode ≤ 0x03) {op : HostOp} {setMask clrMask : Byte}
    (hm : setMask ≤ 0x03) (h : mutateEntry op setMask clrMask s = .next t) : SendsCatalogueBytes s t := by
  have hv : updateFlags s.entryMode setMask clrMask ≤ 0x03 :=
    Nat.le_of_lt_succ (updateFlags_lt (k := 2) (Nat.lt_succ_of_le he) (Nat.lt_succ_of_le hm) clrMask)
  rw [mutateEntry, requireReady_ready op hs] at h
  cases h
  exact sendCommand_sendsCatalogueBytes (s := { clearOpFail s with entryMode := _ }) hc (decodeCmd8_entryModeByte hv)

theorem writeOne_sendsCatalogueBytes {op : HostOp} {b : Byte} (h : writeOne op b s = .next t) : SendsCatalogueBytes s t :=
  .of_requireReady hs hc (f := send b true) (fun _ hu => sendData_sendsCatalogueBytes hu b) h

theorem execWriteString_sendsCatalogueBytes {bytes : List Byte} (h : execWriteString bytes s = .next t) :
    SendsCatalogueBytes s t :=
  .of_requireReady hs hc (f := fun u => (sendString bytes 0 u).2) (fun _ hu => sendString_sendsCatalogueBytes hu bytes 0) h

theorem execCreateChar_sendsCatalogueBytes {slot : Byte} {glyph : List Byte} (h : execCreateChar slot glyph s = .next t) :
    SendsCatalogueBytes s t := by
  unfold execCreateChar at h
  split at h
  · refine .of_requireReady hs hc (fun u hu => ?_) h
    have hcmd := sendCommand_sendsCatalogueBytes hu (decodeCmd8_cgramByte (cgramAddress slot))
    exact hcmd.trans (sendAll_sendsCatalogueBytes (hcmd.valid hu) glyph)
  · cases h

end

/-- Legal in both phases (R173). -/
theorem execSetBacklight_sendsCatalogueBytes {s t : State} (hc : s.config.valid = true) {on : Bool}
    (h : execSetBacklight on s = .next t) : SendsCatalogueBytes s t := by
  cases h
  exact transportSetBacklight_sendsCatalogueBytes (s := clearOpFail s) hc on

/-- Every host operation but `begin`, `command` and `getCharAt` sends whole bytes, its commands from the catalogue (R8, R113). -/
theorem exec_sendsCatalogueBytes {i : Instr} {s t : State} (hs : s.phase = .ready) (hc : s.config.valid = true)
    (hop : i.hostOp ≠ none) (hex : i.hostOp ∉ [some HostOp.begin, some .command, some .getCharAt])
    (he : s.entryMode ≤ 0x03) (hd : s.displayControl ≤ 0x07) (h : exec i s = .next t) : SendsCatalogueBytes s t := by
  cases i with
  | clearDisplay | returnHome | entryModeSet | displayControl | cursorDisplayShift | functionSet | setCgramAddress
  | setDdramAddress | dataByte | wake | to4bit | portWord => exact absurd rfl hop
  | begin | command | getCharAt => simp [Instr.hostOp] at hex
  | writeData b | write b => exact writeOne_sendsCatalogueBytes hs hc h
  | clear => exact commandWait_sendsCatalogueBytes hs hc (j := .clearDisplay) rfl h
  | home => exact commandWait_sendsCatalogueBytes hs hc (j := .returnHome) rfl h
  | display | noDisplay | cursor | noCursor | blink | noBlink =>
    exact mutateDisplay_sendsCatalogueBytes hs hc hd (by decide) h
  | leftToRight | rightToLeft | autoscroll | noAutoscroll =>
    exact mutateEntry_sendsCatalogueBytes hs hc he (by decide) h
  | scrollDisplayLeft => exact command_sendsCatalogueBytes hs hc (decodeCmd8_shiftByte true false) h
  | scrollDisplayRight => exact command_sendsCatalogueBytes hs hc (decodeCmd8_shiftByte true true) h
  | setCursor col row => exact execSetCursor_sendsCatalogueBytes hs hc h
  | createChar slot glyph => exact execCreateChar_sendsCatalogueBytes hs hc h
  | setBacklight on => exact execSetBacklight_sendsCatalogueBytes hc h
  | writeString bytes => exact execWriteString_sendsCatalogueBytes hs hc h

/-- Settles O53, by composing what each shared operation sends. -/
theorem namedOperationsSendCatalogueBytes : Obligations.NamedOperationsSendCatalogueBytes := by
  intro i s t hs hc hop hex he hd h
  obtain ⟨-, evs, bytes, htr, hst, hcat⟩ := exec_sendsCatalogueBytes hs hc hop hex he hd h
  simp only [byteStrobes_eq_extract] at hst
  exact ⟨evs, bytes, htr, hst, hcat⟩

end Sys2Proof.Machine

/-! The family of spec/10_state.md. `writtenBy i s` is `s` with the registers that instruction `i` writes before its events,
`emittedBy i s` the block's part of those events, and `Runs i s t evs` says that `i` led from `s` to `t` by exactly these and the
environment's answers. `exec_runs` proves it once for every instruction; the obligations about all instructions are read off it. -/

namespace Sys2Proof.Machine

/-! ## What an instruction writes and emits -/

/-- A display-control setter's register part (R156): its own failure record, the shadow. -/
def setDisplayFlags (setMask clrMask : Byte) (s : State) : State :=
  { clearOpFail s with displayControl := updateFlags s.displayControl setMask clrMask }

/-- An entry-mode setter's register part (R156). -/
def setEntryFlags (setMask clrMask : Byte) (s : State) : State :=
  { clearOpFail s with entryMode := updateFlags s.entryMode setMask clrMask }

/-- `begin`'s register part (R121, R122): the captured operands, and the shadows its steps 9 and 10 leave. -/
def beginShadows (cols rows : Nat) (charSize : CharSize) (s : State) : State :=
  { captureBegin cols rows charSize s with displayControl := 0x04, entryMode := 0x02 }

/-- The registers an instruction writes, the events and their failure record left out (R11 to R15, R18, D30). -/
def writtenBy (i : Instr) (s : State) : State :=
  match i with
  | .clearDisplay | .returnHome | .entryModeSet .. | .displayControl .. | .cursorDisplayShift .. | .functionSet ..
  | .setCgramAddress .. | .setDdramAddress .. | .dataByte .. | .wake | .to4bit | .portWord .. => s
  | .begin cols rows charSize =>
    match s.phase with
    | .ready => s
    | .uninitialized => beginShadows cols rows charSize s
  | .display => setDisplayFlags DC_DISPLAY 0 s
  | .noDisplay => setDisplayFlags 0 DC_DISPLAY s
  | .cursor => setDisplayFlags DC_CURSOR 0 s
  | .noCursor => setDisplayFlags 0 DC_CURSOR s
  | .blink => setDisplayFlags DC_BLINK 0 s
  | .noBlink => setDisplayFlags 0 DC_BLINK s
  | .leftToRight => setEntryFlags EM_INC 0 s
  | .rightToLeft => setEntryFlags 0 EM_INC s
  | .autoscroll => setEntryFlags EM_SHIFT 0 s
  | .noAutoscroll => setEntryFlags 0 EM_SHIFT s
  | .setBacklight on => { clearOpFail s with backlight := on }
  | .command .. | .writeData .. | .clear | .home | .scrollDisplayLeft | .scrollDisplayRight | .setCursor .. | .createChar ..
  | .write .. | .writeString .. | .getCharAt .. => clearOpFail s

/-- The emissions of a command byte (R110). -/
def commandEmissions (s : State) (b : Byte) : List Emission := byteEmissions s.config s.backlight false b

/-- The emissions of a data byte (R110). -/
def dataEmissions (s : State) (b : Byte) : List Emission := byteEmissions s.config s.backlight true b

/-- The emission of a port word (R73); a Gpio variant has none (R74). -/
def portEmissions (s : State) (n : Nibble) (enable rw rs : Bool) : List Emission :=
  match s.config.transport with
  | .expander x => [.busWrite x.addr7 (x.portByte n enable rw rs s.blLevel)]
  | .gpio _ => []

/-- The emissions of the two reads of `getCharAt` (R174); a Gpio variant has none (R100). -/
def readByteEmissions (s : State) : List Emission :=
  match s.config.transport with
  | .expander x => readEmissions x s.blLevel true ++ readEmissions x s.blLevel true
  | .gpio _ => []

/-- The emissions of the ten steps of `begin` with the function set captured (R122). -/
def beginEmissions (s : State) (functionSet : Byte) : List Emission :=
  ([[.delay 40000],
    nibbleEmissions s.config s.backlight 0x3 false, [.delay 4500],
    nibbleEmissions s.config s.backlight 0x3 false, [.delay 150],
    nibbleEmissions s.config s.backlight 0x3 false, [.delay 150],
    nibbleEmissions s.config s.backlight 0x2 false, [.delay 150],
    commandEmissions s (0x20 ||| functionSet),
    commandEmissions s 0x08,
    commandEmissions s 0x01, [.delay 2000],
    commandEmissions s 0x06,
    commandEmissions s 0x0C] : List (List Emission)).flatten

/-- The block's part of the events of an instruction that completes. -/
def emittedBy (i : Instr) (s : State) : List Emission :=
  match i with
  | .clearDisplay | .clear => commandEmissions s clearByte ++ [.delay T_CLEAR]
  | .returnHome | .home => commandEmissions s homeByte ++ [.delay T_HOME]
  | .entryModeSet inc shift => commandEmissions s (entryModeByte (entryModeFlags inc shift))
  | .displayControl d c b => commandEmissions s (displayControlByte (displayFlags d c b))
  | .cursorDisplayShift m r => commandEmissions s (shiftByte m r)
  | .functionSet w n f => commandEmissions s (functionSetByte (functionFlags w n f))
  | .setCgramAddress a => commandEmissions s (cgramByte a)
  | .setDdramAddress a => commandEmissions s (ddramByte a)
  | .dataByte b | .writeData b | .write b => dataEmissions s b
  | .wake => nibbleEmissions s.config s.backlight wakeNibble false
  | .to4bit => nibbleEmissions s.config s.backlight to4bitNibble false
  | .portWord n e rw rs => portEmissions s n e rw rs
  | .begin _ rows charSize =>
    match s.phase with
    | .ready => []
    | .uninitialized => beginEmissions s (captureFunctionSet rows charSize)
  | .command b => commandEmissions s b
  | .display | .noDisplay | .cursor | .noCursor | .blink | .noBlink =>
    commandEmissions s (displayControlByte (writtenBy i s).displayControl)
  | .leftToRight | .rightToLeft | .autoscroll | .noAutoscroll =>
    commandEmissions s (entryModeByte (writtenBy i s).entryMode)
  | .scrollDisplayLeft => commandEmissions s (shiftByte true false)
  | .scrollDisplayRight => commandEmissions s (shiftByte true true)
  | .setCursor col row => commandEmissions s (ddramByte (ddramAddress s.rows col row))
  | .createChar slot glyph => commandEmissions s (cgramByte (cgramAddress slot)) ++ glyph.flatMap (dataEmissions s)
  | .setBacklight on => backlightEmissions s.config on
  | .writeString bytes => bytes.flatMap (dataEmissions s)
  | .getCharAt col row => commandEmissions s (ddramByte (ddramAddress s.rows col row)) ++ readByteEmissions s

/-- Instruction `i` led from `s` to `t` by the events `evs`; of `t` only the phase `begin` decides and the value handed to the
host are left open. -/
structure Runs (i : Instr) (s t : State) (evs : List Event) : Prop where
  performs : Performs (writtenBy i s) { t with phase := s.phase, ret := s.ret } evs
  emitted : emissions evs = emittedBy i s
  phase : i.hostOp ≠ some .begin → t.phase = s.phase

/-! ## What `writtenBy` leaves unchanged -/

theorem writtenBy_begin_ready {s : State} (hs : s.phase = .ready) (cols rows : Nat) (cs : CharSize) :
    writtenBy (.begin cols rows cs) s = s := by
  simp only [writtenBy, hs]

theorem writtenBy_begin_uninitialized {s : State} (hs : s.phase = .uninitialized) (cols rows : Nat) (cs : CharSize) :
    writtenBy (.begin cols rows cs) s = beginShadows cols rows cs s := by
  simp only [writtenBy, hs]

theorem emittedBy_begin_ready {s : State} (hs : s.phase = .ready) (cols rows : Nat) (cs : CharSize) :
    emittedBy (.begin cols rows cs) s = [] := by
  simp only [emittedBy, hs]

/-- The registers and flags that `writtenBy` may change; every other field is that of `s`. -/
theorem writtenBy_frame (i : Instr) (s : State) :
    writtenBy i s = { s with
      entryMode := (writtenBy i s).entryMode, displayControl := (writtenBy i s).displayControl
      functionSet := (writtenBy i s).functionSet, cols := (writtenBy i s).cols, rows := (writtenBy i s).rows
      charSize := (writtenBy i s).charSize, backlight := (writtenBy i s).backlight, opFail := (writtenBy i s).opFail } := by
  cases i with
  | begin cols rows cs =>
    cases hs : s.phase with
    | ready => rw [writtenBy_begin_ready hs, ← hs]
    | uninitialized => rw [writtenBy_begin_uninitialized hs, ← hs]; rfl
  | _ => rfl

@[simp] theorem writtenBy_phase (i : Instr) (s : State) : (writtenBy i s).phase = s.phase := by rw [writtenBy_frame]
@[simp] theorem writtenBy_faultSeen (i : Instr) (s : State) : (writtenBy i s).faultSeen = s.faultSeen := by rw [writtenBy_frame]
@[simp] theorem writtenBy_config (i : Instr) (s : State) : (writtenBy i s).config = s.config := by rw [writtenBy_frame]
@[simp] theorem writtenBy_requests (i : Instr) (s : State) : (writtenBy i s).requests = s.requests := by rw [writtenBy_frame]
@[simp] theorem writtenBy_env (i : Instr) (s : State) : (writtenBy i s).env = s.env := by rw [writtenBy_frame]
@[simp] theorem writtenBy_trace (i : Instr) (s : State) : (writtenBy i s).trace = s.trace := by rw [writtenBy_frame]
@[simp] theorem writtenBy_ret (i : Instr) (s : State) : (writtenBy i s).ret = s.ret := by rw [writtenBy_frame]

/-- A word of its own keeps the failure record (log 9). -/
theorem writtenBy_opFail_wire {i : Instr} (hi : i.hostOp = none) (s : State) : (writtenBy i s).opFail = s.opFail := by
  cases i with
  | clearDisplay | returnHome | entryModeSet | displayControl | cursorDisplayShift | functionSet | setCgramAddress
  | setDdramAddress | dataByte | wake | to4bit | portWord => rfl
  | _ => cases hi

/-- A host operation that passed its check starts with `opFail` clear (R18, D30). -/
theorem writtenBy_opFail_host {i : Instr} (s : State) (hi : i.hostOp ≠ none)
    (hb : ¬(i.hostOp = some .begin ∧ s.phase = .ready)) : (writtenBy i s).opFail = false := by
  cases i with
  | clearDisplay | returnHome | entryModeSet | displayControl | cursorDisplayShift | functionSet | setCgramAddress
  | setDdramAddress | dataByte | wake | to4bit | portWord => exact absurd rfl hi
  | begin cols rows cs =>
    cases hs : s.phase with
    | uninitialized => rw [writtenBy_begin_uninitialized hs]; rfl
    | ready => exact absurd ⟨rfl, hs⟩ hb
  | _ => rfl

/-! ## Every instruction runs as written -/

/-- A word of its own that performs its emissions. -/
theorem Runs.of_wire {i : Instr} {s t : State} {evs : List Event} (hw : writtenBy i s = s) (h : Performs s t evs)
    (m : emissions evs = emittedBy i s) : Runs i s t evs where
  performs := by rwa [hw, ← h.phase, ← h.ret]
  emitted := m
  phase _ := h.phase

/-- An operation that performs its emissions from its registers and returns. -/
theorem Runs.of_returning {i : Instr} {s t u : State} {evs : List Event} {r : Ret} (h : Performs (writtenBy i s) u evs)
    (m : emissions evs = emittedBy i s) (ht : returning r u = .next t) : Runs i s t evs := by
  cases ht
  have hp : u.phase = s.phase := h.phase.trans (writtenBy_phase i s)
  have hr : u.ret = s.ret := h.ret.trans (writtenBy_ret i s)
  exact ⟨by rwa [← hp, ← hr], m, fun _ => hp⟩

theorem phase_ready_of_requireReady {op : HostOp} {s t : State} {body : State → Result}
    (h : requireReady op s body = .next t) : s.phase = .ready := by
  cases hs : s.phase with
  | ready => rfl
  | uninitialized => rw [requireReady_uninitialized op hs] at h; cases h

/-- An operation that passes the `misuse` check, performs its emissions and returns. -/
theorem runs_of_requireReady {i : Instr} {op : HostOp} {s t u : State} {body : State → Result} {v : Ret}
    (h : requireReady op s body = .next t) (hb : body (clearOpFail s) = returning v u)
    (hu : ∃ evs, Performs (writtenBy i s) u evs ∧ emissions evs = emittedBy i s) : ∃ evs, Runs i s t evs := by
  obtain ⟨evs, hp, m⟩ := hu
  rw [requireReady_ready op (phase_ready_of_requireReady h), hb] at h
  exact ⟨evs, .of_returning hp m h⟩

section
variable {i : Instr} {op : HostOp} {s t : State}

theorem writeOne_runs {b : Byte} (hw : writtenBy i s = clearOpFail s) (he : emittedBy i s = dataEmissions s b)
    (h : writeOne op b s = .next t) : ∃ evs, Runs i s t evs := by
  refine runs_of_requireReady h rfl ?_
  rw [hw, he]
  exact send_performs b true (clearOpFail s)

variable {setMask clrMask : Byte}

theorem mutateDisplay_runs (hw : writtenBy i s = setDisplayFlags setMask clrMask s)
    (he : emittedBy i s = commandEmissions s (displayControlByte (setDisplayFlags setMask clrMask s).displayControl))
    (h : mutateDisplay op setMask clrMask s = .next t) : ∃ evs, Runs i s t evs := by
  refine runs_of_requireReady h rfl ?_
  rw [hw, he]
  exact send_performs _ false (setDisplayFlags setMask clrMask s)

theorem mutateEntry_runs (hw : writtenBy i s = setEntryFlags setMask clrMask s)
    (he : emittedBy i s = commandEmissions s (entryModeByte (setEntryFlags setMask clrMask s).entryMode))
    (h : mutateEntry op setMask clrMask s = .next t) : ∃ evs, Runs i s t evs := by
  refine runs_of_requireReady h rfl ?_
  rw [hw, he]
  exact send_performs _ false (setEntryFlags setMask clrMask s)

end

theorem execSetBacklight_runs {on : Bool} {s t : State} (h : execSetBacklight on s = .next t) :
    ∃ evs, Runs (.setBacklight on) s t evs := by
  obtain ⟨evs, f, e, m⟩ := transportSetBacklight_emits on (clearOpFail s)
  have hp := e.noted
  rw [← f] at hp
  exact ⟨evs, .of_returning hp m h⟩

theorem execPortWord_runs {n : Nibble} {e rw rs : Bool} {s t : State} (h : execPortWord n e rw rs s = .next t) :
    ∃ evs, Runs (.portWord n e rw rs) s t evs := by
  unfold execPortWord at h
  cases ht : s.config.transport with
  | gpio g => simp [ht] at h
  | expander x =>
    simp only [ht] at h
    cases h
    obtain ⟨ack, f, e'⟩ := busWrite_emits x.addr7 (x.portByte n e rw rs s.blLevel) s
    refine ⟨_, .of_wire rfl (evs := [.busWrite x.addr7 (x.portByte n e rw rs s.blLevel) ack]) ?_ ?_⟩
    · simpa [f, Event.failed] using e'.noted
    · simp [emittedBy, portEmissions, ht, Event.emission]

theorem execCreateChar_runs {slot : Byte} {glyph : List Byte} {s t : State} (h : execCreateChar slot glyph s = .next t) :
    ∃ evs, Runs (.createChar slot glyph) s t evs := by
  unfold execCreateChar at h
  split at h
  · refine runs_of_requireReady h rfl ?_
    obtain ⟨a, ha, ma⟩ := send_performs (cgramByte (cgramAddress slot)) false (clearOpFail s)
    obtain ⟨b, hb, mb⟩ := sendAll_performs glyph (send (cgramByte (cgramAddress slot)) false (clearOpFail s))
    refine ⟨a ++ b, ha.trans hb, ?_⟩
    rw [emissions_append, ma, mb, ha.config, ha.backlight]
    rfl
  · cases h

theorem execWriteString_runs {bytes : List Byte} {s t : State} (h : execWriteString bytes s = .next t) :
    ∃ evs, Runs (.writeString bytes) s t evs := by
  refine runs_of_requireReady h rfl ?_
  obtain ⟨chunks, -, hp, m⟩ := sendString_performs bytes 0 (clearOpFail s)
  have hm : emissions chunks.flatten = (chunks.map emissions).flatten := List.map_flatten
  refine ⟨chunks.flatten, hp, ?_⟩
  rw [hm, m, ← List.flatMap_def]
  rfl

/-- The two reads of `getCharAt`, their failure noted (R99, R174). -/
theorem readByte_performs {x : ExpanderCfg} {s : State} (hx : s.config.transport = .expander x) :
    ∃ evs, Performs s (noteFailure ((read4bits x true s).failed || (read4bits x true (read4bits x true s).state).failed)
        (read4bits x true (read4bits x true s).state).state) evs ∧ emissions evs = readByteEmissions s := by
  obtain ⟨a, fa, ea, ma, -⟩ := read4bits_emits x true s
  obtain ⟨b, fb, eb, mb, -⟩ := read4bits_emits x true (read4bits x true s).state
  have hl : (read4bits x true s).state.blLevel = s.blLevel := by rw [State.blLevel, ea.config, ea.backlight]; rfl
  refine ⟨a ++ b, ?_, ?_⟩
  · have h := (ea.trans eb).noted
    rwa [anyFailed_append, ← fa, ← fb] at h
  · rw [emissions_append, ma, mb, hl, readByteEmissions, hx]

/-- The free byte changes nothing but the environment's counter (log 5). -/
theorem drawByte_performs (s : State) : Performs s (drawByte s).2 [] := ⟨by simp [drawByte], .none _, .none _⟩

theorem execGetCharAt_runs {col row : Byte} {s t : State} (h : execGetCharAt col row s = .next t) :
    ∃ evs, Runs (.getCharAt col row) s t evs := by
  unfold execGetCharAt at h
  cases hx : s.config.transport with
  | gpio g => simp [hx] at h
  | expander x =>
    simp only [hx] at h
    split at h
    · rw [requireReady_ready _ (phase_ready_of_requireReady h)] at h
      obtain ⟨a, ha, ma⟩ := send_performs (ddramByte (ddramAddress s.rows col row)) false (clearOpFail s)
      obtain ⟨b, hb, mb⟩ := readByte_performs (ha.config ▸ hx : (send _ false (clearOpFail s)).config.transport = .expander x)
      refine ⟨a ++ b ++ [], .of_returning ((ha.trans hb).trans (drawByte_performs _)) ?_ h⟩
      rw [List.append_nil, emissions_append, ma, mb, readByteEmissions, State.blLevel, ha.config, ha.backlight]
      rfl
    · cases h

/-- `begin` in Ready fails at once: nothing but the returned value changes (D10). -/
theorem execBegin_ready {s t : State} (hs : s.phase = .ready) {cols rows : Nat} {cs : CharSize}
    (h : execBegin cols rows cs s = .next t) : t = { s with ret := .status false } := by
  unfold execBegin at h
  split at h
  · simp only [hs] at h
    cases h
    rfl
  · cases h

/-- `begin` from Uninitialized runs the ten steps and decides (R121 to R123). -/
theorem execBegin_uninitialized {s t : State} (hs : s.phase = .uninitialized) {cols rows : Nat} {cs : CharSize}
    (h : execBegin cols rows cs s = .next t) : t = seqComplete (beginSequence (captureBegin cols rows cs s)) := by
  unfold execBegin at h
  split at h
  · simp only [hs] at h
    cases h
    rfl
  · cases h

theorem execBegin_runs {cols rows : Nat} {cs : CharSize} {s t : State} (h : execBegin cols rows cs s = .next t) :
    ∃ evs, Runs (.begin cols rows cs) s t evs := by
  cases hs : s.phase with
  | ready =>
    rw [execBegin_ready hs h]
    refine ⟨[], ?_, (emittedBy_begin_ready hs cols rows cs).symm, fun _ => rfl⟩
    rw [writtenBy_begin_ready hs]
    exact .refl s
  | uninitialized =>
    obtain ⟨evs, hp, m⟩ := beginSequence_performs (captureBegin cols rows cs s)
    refine ⟨evs, ?_, ?_, fun hb => absurd rfl hb⟩
    · have hphase : (beginSequence (captureBegin cols rows cs s)).phase = s.phase := hp.phase
      have hret : (beginSequence (captureBegin cols rows cs s)).ret = s.ret := hp.ret
      rw [writtenBy_begin_uninitialized hs, execBegin_uninitialized hs h, ← hphase, ← hret]
      exact hp
    · simp only [emittedBy, hs]
      exact m

/-- What every instruction that completes does. -/
theorem exec_runs {i : Instr} {s t : State} (h : exec i s = .next t) : ∃ evs, Runs i s t evs := by
  cases i with
  | clearDisplay | returnHome =>
    cases h
    obtain ⟨evs, hp, m⟩ := sendWait_performs _ _ s
    exact ⟨evs, .of_wire rfl hp m⟩
  | entryModeSet | displayControl | cursorDisplayShift | functionSet | setCgramAddress | setDdramAddress | dataByte =>
    cases h
    obtain ⟨evs, hp, m⟩ := send_performs _ _ s
    exact ⟨evs, .of_wire rfl hp m⟩
  | wake | to4bit =>
    cases h
    obtain ⟨evs, hp, m⟩ := sendNibble_performs _ s
    exact ⟨evs, .of_wire rfl hp m⟩
  | portWord => exact execPortWord_runs h
  | begin => exact execBegin_runs h
  | writeData | write => exact writeOne_runs rfl rfl h
  | display | noDisplay | cursor | noCursor | blink | noBlink => exact mutateDisplay_runs rfl rfl h
  | leftToRight | rightToLeft | autoscroll | noAutoscroll => exact mutateEntry_runs rfl rfl h
  | command | scrollDisplayLeft | scrollDisplayRight | setCursor =>
    dsimp only [exec] at h
    exact runs_of_requireReady h rfl (send_performs _ _ _)
  | clear | home =>
    dsimp only [exec] at h
    exact runs_of_requireReady h rfl (sendWait_performs _ _ _)
  | createChar => exact execCreateChar_runs h
  | setBacklight => exact execSetBacklight_runs h
  | writeString bytes => exact execWriteString_runs h
  | getCharAt => exact execGetCharAt_runs h

/-! ## The fields an instruction leaves -/

section
variable {i : Instr} {s t : State} {evs : List Event} (h : Runs i s t evs)
include h
theorem Runs.entryMode : t.entryMode = (writtenBy i s).entryMode := h.performs.entryMode
theorem Runs.displayControl : t.displayControl = (writtenBy i s).displayControl := h.performs.displayControl
theorem Runs.functionSet : t.functionSet = (writtenBy i s).functionSet := h.performs.functionSet
theorem Runs.cols : t.cols = (writtenBy i s).cols := h.performs.cols
theorem Runs.rows : t.rows = (writtenBy i s).rows := h.performs.rows
theorem Runs.charSize : t.charSize = (writtenBy i s).charSize := h.performs.charSize
theorem Runs.backlight : t.backlight = (writtenBy i s).backlight := h.performs.backlight
theorem Runs.opFail : t.opFail = ((writtenBy i s).opFail || anyFailed evs) := h.performs.opFail
theorem Runs.faultSeen : t.faultSeen = (s.faultSeen || anyFailed evs) := by simpa using h.performs.faultSeen
theorem Runs.config : t.config = s.config := by simpa using h.performs.config
theorem Runs.requests : t.requests = s.requests := by simpa using h.performs.requests
theorem Runs.trace : t.trace = s.trace ++ evs := by simpa using h.performs.trace
end

/-! ## When an instruction completes -/

/-- The operands are in their types, the configuration has the instruction, and the phase allows it (R182, R184). -/
def Legal (i : Instr) (s : State) : Prop :=
  i.wellFormed = true ∧ i.existsOn s.config = true ∧ (s.phase = .ready ∨ ∀ op, i.hostOp = some op → op.needsReady = false)

/-- A word of its own checks no phase (log 9). -/
theorem legal_of_hostOp_none {i : Instr} {s : State} (hw : i.wellFormed = true) (he : i.existsOn s.config = true)
    (hop : i.hostOp = none) : Legal i s :=
  ⟨hw, he, .inr fun op h => by rw [hop] at h; cases h⟩

theorem legal_iff_ready {i : Instr} {s : State} {op : HostOp} (hop : i.hostOp = some op) (hn : op.needsReady = true) :
    Legal i s ↔ i.wellFormed = true ∧ i.existsOn s.config = true ∧ s.phase = .ready := by
  simp [Legal, hop, hn]

theorem legal_iff_phase_ready {i : Instr} {s : State} {op : HostOp} (hop : i.hostOp = some op) (hn : op.needsReady = true)
    (hw : i.wellFormed = true) (he : i.existsOn s.config = true) : Legal i s ↔ s.phase = .ready := by
  rw [legal_iff_ready hop hn, and_iff_right hw, and_iff_right he]

theorem legal_iff_of_not_needsReady {i : Instr} {s : State} {op : HostOp} (hop : i.hostOp = some op)
    (hn : op.needsReady = false) : Legal i s ↔ i.wellFormed = true ∧ i.existsOn s.config = true := by
  simp [Legal, hop, hn]

/-- Where the rest of an operation always completes, the `misuse` check alone decides. -/
theorem requireReady_completes_iff {op : HostOp} {s : State} {body : State → Result} (hb : ∀ u, ∃ t, body u = .next t) :
    (∃ t, requireReady op s body = .next t) ↔ s.phase = .ready := by
  refine ⟨fun ⟨_, h⟩ => phase_ready_of_requireReady h, fun hs => ?_⟩
  rw [requireReady_ready op hs]
  exact hb _

theorem returning_completes (v : Ret) (u : State) : ∃ t, returning v u = .next t := ⟨_, rfl⟩

theorem writeOne_completes_iff (op : HostOp) (b : Byte) (s : State) :
    (∃ t, writeOne op b s = .next t) ↔ s.phase = .ready :=
  requireReady_completes_iff fun _ => returning_completes _ _

theorem mutateDisplay_completes_iff (op : HostOp) (setMask clrMask : Byte) (s : State) :
    (∃ t, mutateDisplay op setMask clrMask s = .next t) ↔ s.phase = .ready :=
  requireReady_completes_iff fun _ => returning_completes _ _

theorem mutateEntry_completes_iff (op : HostOp) (setMask clrMask : Byte) (s : State) :
    (∃ t, mutateEntry op setMask clrMask s = .next t) ↔ s.phase = .ready :=
  requireReady_completes_iff fun _ => returning_completes _ _

theorem execBegin_completes_iff (cols rows : Nat) (cs : CharSize) (s : State) :
    (∃ t, execBegin cols rows cs s = .next t) ↔ (colsOk cols && rowsOk rows) = true := by
  unfold execBegin
  cases colsOk cols && rowsOk rows <;> cases s.phase <;> simp [returning]

theorem execPortWord_completes_iff (n : Nibble) (e rw rs : Bool) (s : State) :
    (∃ t, execPortWord n e rw rs s = .next t) ↔ s.config.hasPort = true := by
  unfold execPortWord Config.hasPort
  cases s.config.transport <;> simp

theorem execCreateChar_completes_iff (slot : Byte) (glyph : List Byte) (s : State) :
    (∃ t, execCreateChar slot glyph s = .next t) ↔ glyphOk glyph = true ∧ s.phase = .ready := by
  unfold execCreateChar
  split
  · next hg => exact (requireReady_completes_iff fun _ => returning_completes _ _).trans (and_iff_right hg).symm
  · next hg => simp [hg]

theorem execGetCharAt_completes_iff (col row : Byte) (s : State) :
    (∃ t, execGetCharAt col row s = .next t) ↔ s.config.canRead = true ∧ s.phase = .ready := by
  unfold execGetCharAt Config.canRead
  cases s.config.transport with
  | gpio g => simp
  | expander x =>
    by_cases hr : s.config.readSupported = true
    · simp only [hr, if_true, true_and]
      exact requireReady_completes_iff fun _ => returning_completes _ _
    · simp [hr]

/-- An instruction completes exactly when it is legal. -/
theorem exec_completes_iff (i : Instr) (s : State) : (∃ t, exec i s = .next t) ↔ Legal i s := by
  cases i with
  | clearDisplay | returnHome | entryModeSet | displayControl | cursorDisplayShift | functionSet | setCgramAddress
  | setDdramAddress | dataByte | wake | to4bit => exact ⟨fun _ => legal_of_hostOp_none rfl rfl rfl, fun _ => ⟨_, rfl⟩⟩
  | portWord =>
    exact (execPortWord_completes_iff ..).trans ⟨fun hp => legal_of_hostOp_none rfl hp rfl, fun h => h.2.1⟩
  | begin =>
    rw [legal_iff_of_not_needsReady (op := .begin) rfl rfl]
    exact (execBegin_completes_iff ..).trans (and_iff_left rfl).symm
  | setBacklight =>
    rw [legal_iff_of_not_needsReady (op := .setBacklight) rfl rfl]
    exact ⟨fun _ => ⟨rfl, rfl⟩, fun _ => ⟨_, rfl⟩⟩
  | createChar =>
    rw [legal_iff_ready (op := .createChar) rfl rfl]
    exact (execCreateChar_completes_iff ..).trans ⟨fun ⟨hg, hs⟩ => ⟨hg, rfl, hs⟩, fun ⟨hg, _, hs⟩ => ⟨hg, hs⟩⟩
  | getCharAt =>
    rw [legal_iff_ready (op := .getCharAt) rfl rfl]
    exact (execGetCharAt_completes_iff ..).trans ⟨fun ⟨hr, hs⟩ => ⟨rfl, hr, hs⟩, fun ⟨_, hr, hs⟩ => ⟨hr, hs⟩⟩
  | writeData | write =>
    exact (writeOne_completes_iff ..).trans (legal_iff_phase_ready rfl rfl rfl rfl).symm
  | display | noDisplay | cursor | noCursor | blink | noBlink =>
    exact (mutateDisplay_completes_iff ..).trans (legal_iff_phase_ready rfl rfl rfl rfl).symm
  | leftToRight | rightToLeft | autoscroll | noAutoscroll =>
    exact (mutateEntry_completes_iff ..).trans (legal_iff_phase_ready rfl rfl rfl rfl).symm
  | command | clear | home | scrollDisplayLeft | scrollDisplayRight | setCursor | writeString =>
    rw [legal_iff_phase_ready rfl rfl rfl rfl]
    dsimp only [exec]
    exact requireReady_completes_iff fun _ => returning_completes _ _

/-- An instruction that completes is well-typed (R184). -/
theorem wellFormed_of_exec {i : Instr} {s t : State} (h : exec i s = .next t) : i.wellFormed = true :=
  ((exec_completes_iff i s).1 ⟨t, h⟩).1

/-- Before `begin` has succeeded no operation that needs Ready completes (R182). -/
theorem not_needsReady_of_exec {i : Instr} {s t : State} (hs : s.phase = .uninitialized) (h : exec i s = .next t)
    {op : HostOp} (hop : i.hostOp = some op) : op.needsReady = false := by
  obtain ⟨-, -, hr | hn⟩ := (exec_completes_iff i s).1 ⟨t, h⟩
  · rw [hs] at hr; cases hr
  · exact hn op hop

/-! ## Which emissions an instruction can make -/

/-- A property that waits, the emissions of a nibble, of the reads, of a port word and of the backlight flush have, all emissions
have. -/
theorem forall_mem_emittedBy {P : Emission → Prop} {i : Instr} {s : State} (hdelay : ∀ us, P (.delay us))
    (hnibble : ∀ n rs, ∀ e ∈ nibbleEmissions s.config s.backlight n rs, P e) (hread : ∀ e ∈ readByteEmissions s, P e)
    (hport : ∀ n en rw rs, ∀ e ∈ portEmissions s n en rw rs, P e)
    (hback : ∀ on, i = .setBacklight on → ∀ e ∈ backlightEmissions s.config on, P e) : ∀ e ∈ emittedBy i s, P e := by
  have hbyte : ∀ rs b, ∀ e ∈ byteEmissions s.config s.backlight rs b, P e := fun rs b =>
    List.forall_mem_append.2 ⟨hnibble _ rs, hnibble _ rs⟩
  have hwait : ∀ us, ∀ e ∈ [Emission.delay us], P e := fun us => by simpa using hdelay us
  have hdata : ∀ bytes : List Byte, ∀ e ∈ bytes.flatMap (dataEmissions s), P e := fun bytes e he => by
    obtain ⟨b, -, hb⟩ := List.mem_flatMap.1 he
    exact hbyte true b e hb
  cases i with
  | clearDisplay | clear | returnHome | home => exact List.forall_mem_append.2 ⟨hbyte false _, hwait _⟩
  | wake | to4bit => exact hnibble _ false
  | portWord => exact hport _ _ _ _
  | begin cols rows cs =>
    unfold emittedBy
    cases s.phase with
    | ready => simp
    | uninitialized =>
      have hcommand : ∀ b, ∀ e ∈ commandEmissions s b, P e := hbyte false
      simp only [beginEmissions, List.flatten_cons, List.flatten_nil, List.forall_mem_append]
      exact ⟨hwait _, hnibble _ _, hwait _, hnibble _ _, hwait _, hnibble _ _, hwait _, hnibble _ _, hwait _, hcommand _,
        hcommand _, hcommand _, hwait _, hcommand _, hcommand _, nofun⟩
  | createChar slot glyph => exact List.forall_mem_append.2 ⟨hbyte false _, hdata glyph⟩
  | setBacklight on => exact hback on rfl
  | writeString bytes => exact hdata bytes
  | getCharAt => exact List.forall_mem_append.2 ⟨hbyte false _, hread⟩
  | _ => exact hbyte _ _

/-- Whether an emission is a bus transaction, which the environment answers. -/
def Emission.onBus : Emission → Bool
  | .busWrite _ _ => true
  | .busRead _ => true
  | .pinMode _ => false
  | .pinWrite _ _ => false
  | .delay _ => false

/-- Without a bus transaction nothing fails (R18). -/
theorem anyFailed_eq_false {evs : List Event} (h : ∀ e ∈ emissions evs, e.onBus = false) : anyFailed evs = false := by
  simp only [anyFailed, List.any_eq_false]
  intro e he
  have hb := h e.emission (List.mem_map_of_mem he)
  cases e with
  | busWrite | busRead => cases hb
  | pinMode | pinWrite | delay => simp [Event.failed]

/-- A Gpio variant makes no bus transaction (R40, D33). -/
theorem emittedBy_onBus {i : Instr} {s : State} (hp : s.config.hasPort = false) : ∀ e ∈ emittedBy i s, e.onBus = false := by
  unfold Config.hasPort at hp
  cases ht : s.config.transport with
  | expander x => simp [ht] at hp
  | gpio g =>
    refine forall_mem_emittedBy (fun _ => rfl) ?_ ?_ ?_ ?_
    · intro n rs
      cases hrw : g.pinRw <;> simp [nibbleEmissions, ht, hrw, Emission.onBus]
    · simp [readByteEmissions, ht]
    · simp [portEmissions, ht]
    · intro on _
      cases hbl : g.pinBl <;> simp [backlightEmissions, ht, hbl, Emission.onBus]

theorem Runs.anyFailed_gpio {i : Instr} {s t : State} {evs : List Event} (h : Runs i s t evs)
    (hp : s.config.hasPort = false) : anyFailed evs = false :=
  anyFailed_eq_false (h.emitted ▸ emittedBy_onBus hp)

/-! ## The invariant -/

section
variable {s : State} (hs : s.Inv)
include hs

theorem clearOpFail_inv : (clearOpFail s).Inv :=
  ⟨hs.config, hs.entryMode, hs.displayControl, hs.functionSet, hs.cols, hs.rows, nofun, hs.gpio⟩

theorem setDisplayFlags_inv {setMask : Byte} (hm : setMask ≤ 0x07) (clrMask : Byte) :
    (setDisplayFlags setMask clrMask s).Inv :=
  { clearOpFail_inv hs with
    displayControl := Nat.le_of_lt_succ
      (updateFlags_lt (k := 3) (Nat.lt_succ_of_le hs.displayControl) (Nat.lt_succ_of_le hm) clrMask) }

theorem setEntryFlags_inv {setMask : Byte} (hm : setMask ≤ 0x03) (clrMask : Byte) :
    (setEntryFlags setMask clrMask s).Inv :=
  { clearOpFail_inv hs with
    entryMode := Nat.le_of_lt_succ
      (updateFlags_lt (k := 2) (Nat.lt_succ_of_le hs.entryMode) (Nat.lt_succ_of_le hm) clrMask) }

theorem setBacklight_inv (on : Bool) : State.Inv { clearOpFail s with backlight := on } :=
  { clearOpFail_inv hs with }

theorem beginShadows_inv {cols rows : Nat} (hc : (colsOk cols && rowsOk rows) = true) (cs : CharSize) :
    (beginShadows cols rows cs s).Inv := by
  simp only [colsOk, rowsOk, Bool.and_eq_true, decide_eq_true_eq] at hc
  obtain ⟨hcols, hrows⟩ := hc
  exact ⟨hs.config, by simp [beginShadows], by simp [beginShadows], rfl, hcols, hrows, nofun, hs.gpio⟩

/-- The registers an instruction writes are legal (R11 to R14, R21). -/
theorem writtenBy_inv {i : Instr} (hw : i.wellFormed = true) : (writtenBy i s).Inv := by
  cases i with
  | clearDisplay | returnHome | entryModeSet | displayControl | cursorDisplayShift | functionSet | setCgramAddress
  | setDdramAddress | dataByte | wake | to4bit | portWord => exact hs
  | begin cols rows cs =>
    cases hp : s.phase with
    | ready => rwa [writtenBy_begin_ready hp]
    | uninitialized => rw [writtenBy_begin_uninitialized hp]; exact beginShadows_inv hs hw cs
  | display | noDisplay | cursor | noCursor | blink | noBlink => exact setDisplayFlags_inv hs (by decide) _
  | leftToRight | rightToLeft | autoscroll | noAutoscroll => exact setEntryFlags_inv hs (by decide) _
  | setBacklight on => exact setBacklight_inv hs on
  | _ => exact clearOpFail_inv hs

/-- Events add to both flags alike, and on a Gpio variant to neither (R18). -/
theorem Performs.inv {t : State} {evs : List Event} (h : Performs s t evs)
    (hf : s.config.hasPort = false → anyFailed evs = false) : t.Inv := by
  rw [h.state]
  refine ⟨hs.config, hs.entryMode, hs.displayControl, hs.functionSet, hs.cols, hs.rows, ?_, ?_⟩
  · have := hs.failure
    simp only [Bool.or_eq_true]
    exact Or.imp_left this
  · intro hp
    simp [hs.gpio hp, hf hp]

theorem exec_inv {i : Instr} {t : State} (h : exec i s = .next t) : t.Inv := by
  obtain ⟨evs, hr⟩ := exec_runs h
  have ht := hr.performs.inv (writtenBy_inv hs (wellFormed_of_exec h))
    fun hp => hr.anyFailed_gpio (writtenBy_config i s ▸ hp)
  exact { ht with }

end

/-- A step that gives a next state idles or runs an instruction, a request consumed (R59, R200). -/
theorem step_next {s t : State} (h : step s = .next t) :
    t = s ∨ ∃ i rest, exec i { s with requests := rest } = .next t := by
  unfold step fetchRequest at h
  cases hr : s.requests with
  | nil =>
    simp only [hr] at h
    cases h
    exact .inl rfl
  | cons r rest =>
    simp only [hr] at h
    split at h
    · next i _ => exact .inr ⟨i, rest, h⟩
    · cases h

/-- Settles O7: what an instruction writes is legal, and its events keep the failure record in order. -/
theorem stepKeepsTheInvariant : Obligations.StepKeepsTheInvariant := by
  intro s t hs h
  rcases step_next h with rfl | ⟨i, rest, hi⟩
  · exact hs
  · have hrest : State.Inv { s with requests := rest } := { hs with }
    exact exec_inv hrest hi

/-! ## The phase (R17, R190) -/

/-- The machine of R124 decides as R123 says: Ready when and only when nothing failed. -/
theorem seqComplete_phase {u : State} (hu : u.phase = .uninitialized) :
    (seqComplete u).opFail = false ↔ (seqComplete u).phase = .ready := by
  change u.opFail = false ↔ (if u.opFail then u.phase else .ready) = .ready
  cases u.opFail <;> simp [hu]

theorem seqComplete_ret {u : State} (hu : u.phase = .uninitialized) (h : (seqComplete u).phase = .ready) :
    (seqComplete u).ret = .status true := by
  have hf : u.opFail = false := (seqComplete_phase hu).2 h
  simp [seqComplete, hf]

/-- The ten steps write no phase (R122). -/
theorem beginSequence_phase (cols rows : Nat) (cs : CharSize) (s : State) :
    (beginSequence (captureBegin cols rows cs s)).phase = s.phase := by
  obtain ⟨_, hp, -⟩ := beginSequence_performs (captureBegin cols rows cs s)
  exact hp.phase

theorem eq_begin_of_hostOp {i : Instr} (h : i.hostOp = some .begin) : ∃ cols rows cs, i = .begin cols rows cs := by
  cases i with
  | begin cols rows cs => exact ⟨cols, rows, cs, rfl⟩
  | _ => cases h

/-- Settles O46: only `begin` writes the phase, and it decides by its own failures. -/
theorem onlyASuccessfulBeginMakesReady : Obligations.OnlyASuccessfulBeginMakesReady := by
  intro i s t h
  obtain ⟨evs, hr⟩ := exec_runs h
  by_cases hb : i.hostOp = some .begin
  · obtain ⟨cols, rows, cs, rfl⟩ := eq_begin_of_hostOp hb
    refine ⟨fun hs => ?_, fun hs => ?_⟩
    · rw [execBegin_ready hs h]
      exact hs
    · have hu := (beginSequence_phase cols rows cs s).trans hs
      rw [execBegin_uninitialized hs h]
      exact ⟨(and_iff_right ⟨cols, rows, cs, rfl⟩).trans (seqComplete_phase hu), seqComplete_ret hu⟩
  · have hp := hr.phase hb
    refine ⟨fun hs => hp.trans hs, fun hs => ?_⟩
    have hnot : t.phase ≠ .ready := by simp [hp, hs]
    have hnb : ¬∃ cols rows cs, i = .begin cols rows cs := by
      rintro ⟨cols, rows, cs, rfl⟩
      exact hb rfl
    exact ⟨⟨fun hi => absurd hi.1 hnb, fun ht => absurd ht hnot⟩, fun ht => absurd ht hnot⟩

/-! ## Who writes a register (R11 to R15, R21) -/

theorem writtenBy_backlight_ne {i : Instr} {s : State} (h : (writtenBy i s).backlight ≠ s.backlight) :
    i.hostOp = some .setBacklight := by
  cases i with
  | setBacklight => rfl
  | begin cols rows cs =>
    cases hs : s.phase with
    | ready => exact absurd (by rw [writtenBy_begin_ready hs]) h
    | uninitialized => exact absurd (by rw [writtenBy_begin_uninitialized hs]; rfl) h
  | _ => exact absurd rfl h

theorem writtenBy_entryMode_ne {i : Instr} {s : State} (h : (writtenBy i s).entryMode ≠ s.entryMode) :
    i.hostOp ∈ [some HostOp.begin, some .leftToRight, some .rightToLeft, some .autoscroll, some .noAutoscroll] := by
  cases i with
  | begin | leftToRight | rightToLeft | autoscroll | noAutoscroll => simp [Instr.hostOp]
  | _ => exact absurd rfl h

theorem writtenBy_displayControl_ne {i : Instr} {s : State} (h : (writtenBy i s).displayControl ≠ s.displayControl) :
    i.hostOp ∈ [some HostOp.begin, some .display, some .noDisplay, some .cursor, some .noCursor, some .blink, some .noBlink] := by
  cases i with
  | begin | display | noDisplay | cursor | noCursor | blink | noBlink => simp [Instr.hostOp]
  | _ => exact absurd rfl h

/-- Only `begin` from Uninitialized writes the function set and the geometry (R13, R14). -/
theorem writtenBy_geometry {i : Instr} {s : State} (h : ¬(i.hostOp = some .begin ∧ s.phase = .uninitialized)) :
    (writtenBy i s).functionSet = s.functionSet ∧ (writtenBy i s).cols = s.cols ∧ (writtenBy i s).rows = s.rows ∧
      (writtenBy i s).charSize = s.charSize := by
  cases i with
  | begin cols rows cs =>
    cases hs : s.phase with
    | ready => rw [writtenBy_begin_ready hs]; exact ⟨rfl, rfl, rfl, rfl⟩
    | uninitialized => exact absurd ⟨rfl, hs⟩ h
  | _ => exact ⟨rfl, rfl, rfl, rfl⟩

/-- Settles O47: an instruction leaves the registers of `writtenBy`. -/
theorem registersAreWrittenOnlyByTheirOperations : Obligations.RegistersAreWrittenOnlyByTheirOperations := by
  intro i s t h
  obtain ⟨evs, hr⟩ := exec_runs h
  rw [hr.backlight, hr.entryMode, hr.displayControl, hr.functionSet, hr.cols, hr.rows, hr.charSize]
  refine ⟨writtenBy_backlight_ne, writtenBy_entryMode_ne, writtenBy_displayControl_ne, fun hne => ?_⟩
  by_contra hnot
  obtain ⟨hfs, hcols, hrows, hcs⟩ := writtenBy_geometry hnot
  simp [hfs, hcols, hrows, hcs] at hne

/-! ## The failure record (R18, R23) -/

/-- Settles O48: the events of an instruction add their failures to the record it starts with. -/
theorem failureRecordFollowsTheAnswers : Obligations.FailureRecordFollowsTheAnswers := by
  intro i s t h
  obtain ⟨evs, hr⟩ := exec_runs h
  refine ⟨evs, hr.trace, hr.faultSeen, fun hi => ?_, fun hi hb => ?_, fun ⟨hi, hs⟩ => ?_, hr.anyFailed_gpio⟩
  · rw [hr.opFail, writtenBy_opFail_wire hi]
  · rw [hr.opFail, writtenBy_opFail_host s hi hb, Bool.false_or]
  · obtain ⟨cols, rows, cs, rfl⟩ := eq_begin_of_hostOp hi
    have hevs : evs = [] := List.map_eq_nil_iff.1 (hr.emitted.trans (emittedBy_begin_ready hs cols rows cs))
    exact ⟨by rw [execBegin_ready hs h], hevs⟩

/-! ## The environment's answers steer nothing (R22, R56) -/

theorem writtenBy_withEnv (i : Instr) (s : State) (e : Env) :
    writtenBy i { s with env := e } = { writtenBy i s with env := e } := by
  cases i with
  | begin =>
    obtain ⟨phase⟩ := s
    cases phase <;> rfl
  | _ => rfl

theorem emittedBy_withEnv (i : Instr) (s : State) (e : Env) : emittedBy i { s with env := e } = emittedBy i s := by
  cases i <;> rfl

/-- Whether an instruction completes does not depend on the answers. -/
theorem exec_completes_withEnv {i : Instr} {s t : State} (h : exec i s = .next t) (e : Env) :
    ∃ u, exec i { s with env := e } = .next u :=
  (exec_completes_iff i _).2 ((exec_completes_iff i s).1 ⟨t, h⟩)

/-- Settles O49: `Legal`, `writtenBy` and `emittedBy` do not read the environment. -/
theorem answersDoNotSteerTheBlock : Obligations.AnswersDoNotSteerTheBlock := by
  intro i s e t h
  obtain ⟨u, hu⟩ := exec_completes_withEnv h e
  obtain ⟨v, hv⟩ := exec_runs h
  obtain ⟨w, hw⟩ := exec_runs hu
  refine ⟨u, v, w, hu, hv.trace, hw.trace, ?_, ?_, ?_, ?_, ?_, ?_, ?_, ?_, hw.config.trans hv.config.symm,
    hw.requests.trans hv.requests.symm, fun hb => (hw.phase hb).trans (hv.phase hb).symm⟩
  · rw [hw.emitted, hv.emitted, emittedBy_withEnv]
  · rw [hw.entryMode, hv.entryMode, writtenBy_withEnv]
  · rw [hw.displayControl, hv.displayControl, writtenBy_withEnv]
  · rw [hw.functionSet, hv.functionSet, writtenBy_withEnv]
  · rw [hw.cols, hv.cols, writtenBy_withEnv]
  · rw [hw.rows, hv.rows, writtenBy_withEnv]
  · rw [hw.charSize, hv.charSize, writtenBy_withEnv]
  · rw [hw.backlight, hv.backlight, writtenBy_withEnv]

/-! ## The registers without a reset value (R27) -/

/-- Values for the six registers that reset leaves without one (R27, log 3). -/
structure Uncaptured where
  entryMode : Byte
  displayControl : Byte
  functionSet : Byte
  cols : Nat
  rows : Nat
  charSize : CharSize

/-- The state with other values in the six registers. -/
def State.withUncaptured (s : State) (r : Uncaptured) : State :=
  { s with entryMode := r.entryMode, displayControl := r.displayControl, functionSet := r.functionSet
           cols := r.cols, rows := r.rows, charSize := r.charSize }

/-! The shared operations commute with putting other values in the six registers. -/

theorem writeNibble_withUncaptured (n : Nibble) (rs : Bool) (s : State) (r : Uncaptured) :
    writeNibble n rs (s.withUncaptured r) = ((writeNibble n rs s).1, (writeNibble n rs s).2.withUncaptured r) := by
  have hc : (s.withUncaptured r).config = s.config := rfl
  unfold writeNibble
  rw [hc]
  cases s.config.transport with
  | expander x => rfl
  | gpio g =>
    obtain ⟨_, rw, _, _, _, _, _, _⟩ := g
    cases rw <;> rfl

theorem send_withUncaptured (b : Byte) (rs : Bool) (s : State) (r : Uncaptured) :
    send b rs (s.withUncaptured r) = (send b rs s).withUncaptured r := by
  simp only [send, sendByte, writeNibble_withUncaptured]
  rfl

theorem sendNibble_withUncaptured (n : Nibble) (s : State) (r : Uncaptured) :
    sendNibble n (s.withUncaptured r) = (sendNibble n s).withUncaptured r := by
  simp only [sendNibble, writeNibble_withUncaptured]
  rfl

theorem sendWait_withUncaptured (b : Byte) (us : Nat) (s : State) (r : Uncaptured) :
    wait us (sendCommand b (s.withUncaptured r)) = (wait us (sendCommand b s)).withUncaptured r :=
  congrArg (wait us) (send_withUncaptured b false s r)

theorem nibbleWait_withUncaptured (n : Nibble) (us : Nat) (s : State) (r : Uncaptured) :
    wait us (sendNibble n (s.withUncaptured r)) = (wait us (sendNibble n s)).withUncaptured r :=
  congrArg (wait us) (sendNibble_withUncaptured n s r)

theorem execPortWord_withUncaptured {n : Nibble} {e rw rs : Bool} {s t : State} (h : execPortWord n e rw rs s = .next t)
    (r : Uncaptured) : execPortWord n e rw rs (s.withUncaptured r) = .next (t.withUncaptured r) := by
  have hc : (s.withUncaptured r).config = s.config := rfl
  unfold execPortWord at h ⊢
  rw [hc]
  cases ht : s.config.transport with
  | expander x =>
    simp only [ht] at h
    cases h
    rfl
  | gpio g => simp [ht] at h

theorem transportSetBacklight_withUncaptured (on : Bool) (s : State) (r : Uncaptured) :
    transportSetBacklight on (s.withUncaptured r) =
      ((transportSetBacklight on s).1, (transportSetBacklight on s).2.withUncaptured r) := by
  have hc : (s.withUncaptured r).config = s.config := rfl
  unfold transportSetBacklight
  simp only [hc]
  cases s.config.transport with
  | expander x => rfl
  | gpio g => cases hb : g.pinBl <;> simp only [hb] <;> rfl

theorem execSetBacklight_withUncaptured {on : Bool} {s t : State} (h : execSetBacklight on s = .next t) (r : Uncaptured) :
    execSetBacklight on (s.withUncaptured r) = .next (t.withUncaptured r) := by
  have hc : clearOpFail (s.withUncaptured r) = (clearOpFail s).withUncaptured r := rfl
  cases h
  simp only [execSetBacklight, hc, transportSetBacklight_withUncaptured]
  rfl

/-- Before `begin` has succeeded every instruction but `begin` runs alike whatever the six registers hold, and leaves them. -/
theorem exec_withUncaptured {i : Instr} {s t : State} (hs : s.phase = .uninitialized) (hb : i.hostOp ≠ some .begin)
    (h : exec i s = .next t) (r : Uncaptured) : exec i (s.withUncaptured r) = .next (t.withUncaptured r) := by
  cases i with
  | clearDisplay | returnHome =>
    cases h
    exact congrArg Host.Outcome.next (sendWait_withUncaptured _ _ s r)
  | entryModeSet | displayControl | cursorDisplayShift | functionSet | setCgramAddress | setDdramAddress | dataByte =>
    cases h
    exact congrArg Host.Outcome.next (send_withUncaptured _ _ s r)
  | wake | to4bit =>
    cases h
    exact congrArg Host.Outcome.next (sendNibble_withUncaptured _ s r)
  | portWord => exact execPortWord_withUncaptured h r
  | begin => exact absurd rfl hb
  | setBacklight => exact execSetBacklight_withUncaptured h r
  | _ => exact absurd (not_needsReady_of_exec hs h rfl) (by decide)

/-! ### `begin` overwrites the six -/

theorem beginStep1_withUncaptured (s : State) (r : Uncaptured) :
    beginStep1 (s.withUncaptured r) = (beginStep1 s).withUncaptured r := rfl

theorem beginWake_withUncaptured (us : Nat) (s : State) (r : Uncaptured) :
    beginWake us (s.withUncaptured r) = (beginWake us s).withUncaptured r :=
  nibbleWait_withUncaptured wakeNibble us s r

theorem beginStep5_withUncaptured (s : State) (r : Uncaptured) :
    beginStep5 (s.withUncaptured r) = (beginStep5 s).withUncaptured r :=
  nibbleWait_withUncaptured to4bitNibble T_TO4 s r

/-- Step 6 sends the function set, one of the six. -/
theorem beginStep6_withUncaptured {s : State} {r : Uncaptured} (hf : r.functionSet = s.functionSet) :
    beginStep6 (s.withUncaptured r) = (beginStep6 s).withUncaptured r := by
  rw [beginStep6, beginStep6, sendCommand, sendCommand, send_withUncaptured, ← hf]
  rfl

theorem beginDisplay_withUncaptured (flags : Byte) (s : State) (r : Uncaptured) :
    beginDisplay flags (s.withUncaptured r) = (beginDisplay flags s).withUncaptured { r with displayControl := flags } :=
  send_withUncaptured _ false { s with displayControl := flags } { r with displayControl := flags }

theorem beginStep8_withUncaptured (s : State) (r : Uncaptured) :
    beginStep8 (s.withUncaptured r) = (beginStep8 s).withUncaptured r :=
  sendWait_withUncaptured clearByte T_CLEAR s r

theorem beginStep9_withUncaptured (s : State) (r : Uncaptured) :
    beginStep9 (s.withUncaptured r) = (beginStep9 s).withUncaptured { r with entryMode := EM_INC } :=
  send_withUncaptured _ false { s with entryMode := EM_INC } { r with entryMode := EM_INC }

/-- The ten steps read of the six only the function set, and overwrite the two shadows (R122). -/
theorem beginSequence_withUncaptured {s : State} {r : Uncaptured} (hf : r.functionSet = s.functionSet) :
    beginSequence (s.withUncaptured r) =
      (beginSequence s).withUncaptured { r with displayControl := DC_DISPLAY, entryMode := EM_INC } := by
  obtain ⟨_, hwake, -⟩ := beginWakeup_performs s
  have h6 := beginStep6_withUncaptured (hf.trans hwake.functionSet.symm)
  simp only [beginSequence, beginStep1_withUncaptured, beginWake_withUncaptured, beginStep5_withUncaptured, h6,
    beginDisplay_withUncaptured, beginStep8_withUncaptured, beginStep9_withUncaptured]

/-- After the capture nothing is left of what the six held (R121, R122). -/
theorem beginSequence_captureBegin_withUncaptured (cols rows : Nat) (cs : CharSize) (s : State) (r : Uncaptured) :
    beginSequence (captureBegin cols rows cs (s.withUncaptured r)) = beginSequence (captureBegin cols rows cs s) := by
  have hcap : captureBegin cols rows cs (s.withUncaptured r) = (captureBegin cols rows cs s).withUncaptured
      ⟨r.entryMode, r.displayControl, captureFunctionSet rows cs, cols, rows, cs⟩ := rfl
  obtain ⟨_, hp, -⟩ := beginSequence_performs (captureBegin cols rows cs s)
  rw [hcap, beginSequence_withUncaptured (by rfl), hp.state]
  rfl

theorem execBegin_withUncaptured {cols rows : Nat} {cs : CharSize} {s t : State} (hs : s.phase = .uninitialized)
    (h : execBegin cols rows cs s = .next t) (r : Uncaptured) : execBegin cols rows cs (s.withUncaptured r) = .next t := by
  obtain ⟨u, hu⟩ := (execBegin_completes_iff cols rows cs (s.withUncaptured r)).2
    ((execBegin_completes_iff cols rows cs s).1 ⟨t, h⟩)
  rw [hu, execBegin_uninitialized (s := s.withUncaptured r) hs hu, execBegin_uninitialized hs h,
    beginSequence_captureBegin_withUncaptured]

/-- Settles O50: `begin` overwrites the six registers, and nothing else that completes while Uninitialized reads them. -/
theorem uncapturedRegistersAreNeverRead : Obligations.UncapturedRegistersAreNeverRead := by
  intro i s em dc fs co ro cs t hs h
  by_cases hb : i.hostOp = some .begin
  · obtain ⟨cols, rows, charSize, rfl⟩ := eq_begin_of_hostOp hb
    exact ⟨t, execBegin_withUncaptured hs h ⟨em, dc, fs, co, ro, cs⟩, fun _ => rfl, fun hn => absurd hb hn⟩
  · exact ⟨_, exec_withUncaptured hs hb h ⟨em, dc, fs, co, ro, cs⟩, fun hn => absurd hn hb, fun _ => rfl⟩

/-! ## Reset and construction (R27, R200, R203) -/

/-- Settles O1: both sides are evaluated. -/
theorem resetHoldsTheSpecsValues : Obligations.ResetHoldsTheSpecsValues :=
  ⟨rfl, rfl, rfl, rfl, rfl, rfl⟩

theorem captureFunctionSet_one : captureFunctionSet 1 .dots5x8 = 0 := by decide

/-- The values named at reset are legal, whatever the valid configuration (log 3). -/
theorem fresh_inv {c : Config} (hc : c.valid = true) (events : List Event) : (State.fresh c events).Inv where
  config := hc
  entryMode := by simp [State.fresh]
  displayControl := by simp [State.fresh]
  functionSet := captureFunctionSet_one.symm
  cols := by simp [State.fresh]
  rows := by simp [State.fresh]
  failure := nofun
  gpio _ := rfl

/-- The constructor refuses an invalid configuration (R203). -/
theorem valid_of_configOf {a : ConstructArgs} {c : Config} (h : configOf a = some c) : c.valid = true := by
  unfold configOf at h
  split at h
  · cases h
  · simp only [Option.ite_none_right_eq_some, Bool.and_eq_true, Option.some.injEq] at h
    obtain ⟨⟨hv, -⟩, rfl⟩ := h
    exact hv

/-- Settles O5: construction gives `State.fresh` of a valid configuration. -/
theorem constructionMeetsTheInvariant : Obligations.ConstructionMeetsTheInvariant := by
  intro a s h
  unfold construct at h
  split at h
  · next c hc =>
    cases h
    exact fresh_inv (valid_of_configOf hc) _
  · cases h

/-- Settles O6: reset is `State.fresh` of X27. -/
theorem resetMeetsTheInvariant : Obligations.ResetMeetsTheInvariant :=
  fresh_inv (by decide) []

/-! ## The latch and the pins (R24) -/

/-- A later acknowledged word hides the earlier ones. -/
theorem latch_append (a b : List Event) : latch (a ++ b) = (latch b).or (latch a) := by
  induction a with
  | nil => simp [latch]
  | cons e a ih =>
    simp only [List.cons_append, latch, ih]
    cases latch b <;> rfl

/-- A later write of a pin hides the earlier ones. -/
theorem pinLevel_append (p : Nat) (a b : List Event) : pinLevel p (a ++ b) = (pinLevel p b).or (pinLevel p a) := by
  induction a with
  | nil => simp [pinLevel]
  | cons e a ih =>
    simp only [List.cons_append, pinLevel, ih]
    cases pinLevel p b <;> rfl

/-- Settles O55: the last event of the trace decides. -/
theorem latchFollowsAcknowledgedWrites : Obligations.LatchFollowsAcknowledgedWrites := by
  refine ⟨fun a w s => ?_, fun p q v s => ⟨?_, fun hq => ?_⟩⟩
  · obtain ⟨ack, hf, he⟩ := busWrite_emits a w s
    have ht : (busWrite a w s).2.trace = s.trace ++ [.busWrite a w ack] := by rw [he.state]
    rw [hf, ht, latch_append]
    cases ack <;> simp [latch]
  · simp [pinLevel_append, pinLevel]
  · simp [pinLevel_append, pinLevel, hq.symm]

end Sys2Proof.Machine

/-! The family of spec/20_memory.md. The step is read off `decode`, which asks the configuration only for a port word, and the
transport an instance touches off `emittedBy`, whose emissions are all made by the primitives of the instance's own variant. -/

namespace Sys2Proof.Machine

/-! ## A step and the decoder (R59) -/

/-- Settles O8: the oldest request is fetched, and the decoder's reading of it is run. -/
theorem stepRunsTheDecodedRequest : Obligations.StepRunsTheDecodedRequest := by
  intro s r rest i hr hd
  simp only [step, fetchRequest, hr, hd]

/-- Only a port word is read by the configuration and the backlight bit (R73). -/
theorem decode_eq_of_format {r : Request} (hf : r.format ≠ .port8) (c c' : Config) (bl bl' : Bool) :
    decode c bl r = decode c' bl' r := by
  obtain ⟨format, bytes⟩ := r
  cases format with
  | port8 => exact absurd rfl hf
  | hostOp => cases bytes <;> rfl
  | cmd8 | data8 | nib4 => rcases bytes with _ | ⟨b, _ | ⟨c, rest⟩⟩ <;> rfl

/-- No table word is read as a port word (log 8). -/
theorem tableFormat_ne_port8 (nbits w : Nat) : tableFormat nbits w ≠ .port8 := by
  unfold tableFormat
  split
  · nofun
  · split <;> nofun

/-- A table word decodes alike on every instance. -/
theorem decode_tableRequest {nbits w : Nat} {i : Instr} (h : decodeTableWord nbits w = some i) (c : Config) (bl : Bool) :
    decode c bl (tableRequest nbits w) = .ok i := by
  rw [decode_eq_of_format (tableFormat_ne_port8 nbits w) c Config.x27 bl false]
  unfold decodeTableWord at h
  split at h
  · next j hj => cases h; exact hj
  · cases h

/-- Settles O10: the word presented is the oldest request, and it decodes alike on every instance. -/
theorem presentedTableWordRuns : Obligations.PresentedTableWordRuns := by
  intro s nbits w i h
  exact stepRunsTheDecodedRequest (s.withFetchWord nbits w) (tableRequest nbits w) s.requests i rfl
    (decode_tableRequest h s.config s.backlight)

/-! ## The transport an instance touches (R40, R43, R44) -/

/-- A wait, or a bus transaction at the expander's address (R43). -/
def OnExpander (x : ExpanderCfg) (e : Emission) : Prop :=
  (∃ us, e = .delay us) ∨ (∃ w, e = .busWrite x.addr7 w) ∨ e = .busRead x.addr7

/-- A wait, or a level put on a configured pin (R44). -/
def OnGpio (g : GpioCfg) (e : Emission) : Prop :=
  (∃ us, e = .delay us) ∨ ∃ p ∈ gpioPins g, ∃ v, e = .pinWrite p v

@[simp] theorem onGpio_delay (g : GpioCfg) (us : Nat) : OnGpio g (.delay us) := .inl ⟨us, rfl⟩

@[simp] theorem onGpio_pinWrite_iff {g : GpioCfg} {p : Nat} {v : Bool} : OnGpio g (.pinWrite p v) ↔ p ∈ gpioPins g := by
  simp [OnGpio]

theorem emittedBy_onExpander {i : Instr} {s : State} {x : ExpanderCfg} (hx : s.config.transport = .expander x) :
    ∀ e ∈ emittedBy i s, OnExpander x e := by
  refine forall_mem_emittedBy (fun us => .inl ⟨us, rfl⟩) ?_ ?_ ?_ ?_
  · simp [nibbleEmissions, hx, OnExpander]
  · simp [readByteEmissions, readEmissions, hx, OnExpander]
  · simp [portEmissions, hx, OnExpander]
  · simp [backlightEmissions, hx, OnExpander]

theorem emittedBy_onGpio {i : Instr} {s : State} {g : GpioCfg} (hg : s.config.transport = .gpio g) :
    ∀ e ∈ emittedBy i s, OnGpio g e := by
  refine forall_mem_emittedBy (onGpio_delay g) ?_ ?_ ?_ ?_
  · intro n rs
    cases hrw : g.pinRw <;> simp [nibbleEmissions, hg, hrw, gpioPins]
  · simp [readByteEmissions, hg]
  · simp [portEmissions, hg]
  · intro on _
    cases hbl : g.pinBl <;> simp [backlightEmissions, hg, hbl, gpioPins]

/-- Settles O52: every emission is made by a primitive of the instance's own variant. -/
theorem instanceTouchesOnlyItsTransport : Obligations.InstanceTouchesOnlyItsTransport := by
  intro i s t h
  obtain ⟨evs, hr⟩ := exec_runs h
  exact ⟨evs, hr.trace, fun x hx => hr.emitted ▸ emittedBy_onExpander hx, fun g hg => hr.emitted ▸ emittedBy_onGpio hg⟩

end Sys2Proof.Machine

/-! The family of spec/30_encoding.md. Each decoder of one format is answered once in both directions: it reads back what the
encoder writes, and what it reads is well-formed and was written by the encoder (`Encodes`). The round trips are read off these. -/

namespace Sys2Proof

/-! ## Command bytes (R60) -/

theorem decodeCmd8_entryModeFlags (inc shift : Bool) :
    decodeCmd8 (entryModeByte (entryModeFlags inc shift)) = .ok (.entryModeSet inc shift) := by
  revert inc shift; decide

theorem decodeCmd8_displayFlags (d cu bl : Bool) :
    decodeCmd8 (displayControlByte (displayFlags d cu bl)) = .ok (.displayControl d cu bl) := by
  revert d cu bl; decide

theorem decodeCmd8_functionFlags (w n f : Bool) :
    decodeCmd8 (functionSetByte (functionFlags w n f)) = .ok (.functionSet w n f) := by
  revert w n f; decide

/-! A byte that fits a row's match and mask is composed of the row's base and the fields read from it. -/

theorem entryModeByte_of_match {b : Byte} (h : b &&& 0xFC = 0x04) :
    entryModeByte (entryModeFlags (hasFlag b EM_INC) (hasFlag b EM_SHIFT)) = b := by
  revert b; decide

theorem displayControlByte_of_match {b : Byte} (h : b &&& 0xF8 = 0x08) :
    displayControlByte (displayFlags (hasFlag b DC_DISPLAY) (hasFlag b DC_CURSOR) (hasFlag b DC_BLINK)) = b := by
  revert b; decide

theorem shiftByte_of_match {b : Byte} (h : b &&& 0xF3 = 0x10) : shiftByte (hasFlag b SH_DISPLAY) (hasFlag b SH_RIGHT) = b := by
  revert b; decide

theorem functionSetByte_of_match {b : Byte} (h : b &&& 0xE3 = 0x20) :
    functionSetByte (functionFlags (hasFlag b FS_8BIT) (hasFlag b FS_2LINE) (hasFlag b FS_5x10)) = b := by
  revert b; decide

theorem cgramByte_of_match {b : Byte} (h : b &&& 0xC0 = 0x40) : cgramByte (b.setWidth 6) = b := by
  revert b; decide

theorem ddramByte_of_match {b : Byte} (h : b &&& 0x80 = 0x80) : ddramByte (b.setWidth 7) = b := by
  revert b; decide

/-! ## What the decoder of each format reads -/

/-- The request `r` is the encoding of the well-formed instruction `i`. -/
def Encodes (c : Config) (backlight : Bool) (i : Instr) (r : Request) : Prop :=
  i.wellFormed = true ∧ encode c backlight i = r

theorem encodes_of_decodeCmd8 {b : Byte} {i : Instr} (h : decodeCmd8 b = .ok i) (c : Config) (backlight : Bool) :
    Encodes c backlight i ⟨.cmd8, [b]⟩ := by
  have cmd8 {b' : Byte} (hb : b' = b) : (⟨.cmd8, [b']⟩ : Request) = ⟨.cmd8, [b]⟩ := by rw [hb]
  unfold decodeCmd8 at h
  split at h
  · next hm => cases h; exact ⟨rfl, cmd8 (hm.symm.trans BitVec.and_allOnes)⟩
  split at h
  · next hm => cases h; exact ⟨rfl, cmd8 (hm.symm.trans BitVec.and_allOnes)⟩
  split at h
  · next hm => cases h; exact ⟨rfl, cmd8 (entryModeByte_of_match hm)⟩
  split at h
  · next hm => cases h; exact ⟨rfl, cmd8 (displayControlByte_of_match hm)⟩
  split at h
  · next hm => cases h; exact ⟨rfl, cmd8 (shiftByte_of_match hm)⟩
  split at h
  · next hm => cases h; exact ⟨rfl, cmd8 (functionSetByte_of_match hm)⟩
  split at h
  · next hm => cases h; exact ⟨rfl, cmd8 (cgramByte_of_match hm)⟩
  split at h
  · next hm => cases h; exact ⟨rfl, cmd8 (ddramByte_of_match hm)⟩
  · cases h

theorem encodes_of_decodeNib4 {b : Byte} {i : Instr} (h : decodeNib4 b = .ok i) (c : Config) (backlight : Bool) :
    Encodes c backlight i ⟨.nib4, [b]⟩ := by
  unfold decodeNib4 at h
  split at h
  · next hb => cases h; subst hb; exact ⟨rfl, rfl⟩
  split at h
  · next hb => cases h; subst hb; exact ⟨rfl, rfl⟩
  · cases h

/-! ## Port words (R73) -/

/-- Eight distinct positions are all the positions of a byte (R19). -/
theorem mem_expanderPositions {x : ExpanderCfg} (hx : (expanderPositions x).Nodup) (p : Fin 8) : p ∈ expanderPositions x := by
  have hcard : (expanderPositions x).toFinset.card = Fintype.card (Fin 8) := List.toFinset_card_of_nodup hx
  rw [← List.mem_toFinset, (Finset.card_eq_iff_eq_univ _).1 hcard]
  exact Finset.mem_univ p

/-- A port word is composed of the fields read from it (R73, R99). -/
theorem portByte_of_fields {x : ExpanderCfg} (hx : (expanderPositions x).Nodup) (w : Byte) :
    x.portByte (x.nibbleAt w) (w.getLsbD x.pE) (w.getLsbD x.pRw) (w.getLsbD x.pRs) (w.getLsbD x.pBl) = w := by
  obtain ⟨hrs, hrw, he, hbl, h4, h5, h6, h7⟩ :=
    portByte_fields hx (x.nibbleAt w) (w.getLsbD x.pE) (w.getLsbD x.pRw) (w.getLsbD x.pRs) (w.getLsbD x.pBl)
  obtain ⟨n4, n5, n6, n7⟩ := getLsbD_nibbleOf (w.getLsbD x.pD4) (w.getLsbD x.pD5) (w.getLsbD x.pD6) (w.getLsbD x.pD7)
  refine BitVec.eq_of_getLsbD_eq fun p hp => ?_
  have hmem := mem_expanderPositions hx ⟨p, hp⟩
  simp only [expanderPositions, List.mem_cons, List.not_mem_nil, or_false] at hmem
  change BitVec.getLsbD _ (⟨p, hp⟩ : Fin 8) = w.getLsbD (⟨p, hp⟩ : Fin 8)
  rcases hmem with h | h | h | h | h | h | h | h <;> rw [h]
  · exact hrs
  · exact hrw
  · exact he
  · exact hbl
  · exact h4.trans n4
  · exact h5.trans n5
  · exact h6.trans n6
  · exact h7.trans n7

/-- The port word of an instruction is read back, its backlight bit being the block's own (R73, R217). -/
theorem decodePort8_portByte {c : Config} {x : ExpanderCfg} (hc : c.valid = true) (ht : c.transport = .expander x)
    (backlight : Bool) (n : Nibble) (e rw rs : Bool) :
    decodePort8 c backlight (x.portByte n e rw rs (c.blLevel backlight)) = .ok (.portWord n e rw rs) := by
  have hx := c.valid_expander hc ht
  obtain ⟨hrs, hrw, he, hbl, -⟩ := portByte_fields hx n e rw rs (c.blLevel backlight)
  simp only [decodePort8, ht, hrs, hrw, he, hbl, nibbleAt_portByte hx, if_true]

theorem encodes_of_decodePort8 {c : Config} {backlight : Bool} {w : Byte} {i : Instr} (hc : c.valid = true)
    (h : decodePort8 c backlight w = .ok i) : Encodes c backlight i ⟨.port8, [w]⟩ := by
  unfold decodePort8 at h
  split at h
  · cases h
  · next x ht =>
    split at h
    · next hbl =>
      cases h
      refine ⟨rfl, ?_⟩
      simp only [encode, ht, ← hbl, portByte_of_fields (c.valid_expander hc ht)]
    · cases h

/-! ## Selectors (R79) -/

theorem ofSelector_selector (op : HostOp) : HostOp.ofSelector op.selector.toNat = some op := by
  cases op <;> rfl

theorem selector_of_ofSelector {sel : Byte} {op : HostOp} (h : HostOp.ofSelector sel.toNat = some op) : op.selector = sel := by
  have all : ∀ sel : Byte, ∀ op ∈ HostOp.ofSelector sel.toNat, op.selector = sel := by decide
  exact all sel op h

theorem ofSelector_unassigned {sel : Byte} (h : 0x17 ≤ sel) : HostOp.ofSelector sel.toNat = none := by
  revert sel; decide

/-- A request with an operation's selector is read by its operands. -/
theorem decode_hostRequest (c : Config) (backlight : Bool) (op : HostOp) (args : List Byte) :
    decode c backlight (hostRequest op args) = decodeOperands op args := by
  simp only [decode, hostRequest, ofSelector_selector]

/-! ## Operands (R79; log 6) -/

theorem noOperand_eq_ok_iff {i j : Instr} {args : List Byte} : noOperand i args = .ok j ↔ args = [] ∧ i = j := by
  cases args <;> simp [noOperand]

theorem oneOperand_eq_ok_iff {k : Byte → Instr} {j : Instr} {args : List Byte} :
    oneOperand k args = .ok j ↔ ∃ b, args = [b] ∧ k b = j := by
  rcases args with _ | ⟨b, _ | ⟨c, rest⟩⟩ <;> simp [oneOperand]

theorem twoOperands_eq_ok_iff {k : Byte → Byte → Instr} {j : Instr} {args : List Byte} :
    twoOperands k args = .ok j ↔ ∃ b c, args = [b, c] ∧ k b c = j := by
  rcases args with _ | ⟨b, _ | ⟨c, _ | ⟨d, rest⟩⟩⟩ <;> simp [twoOperands]

theorem bitOperand_eq_ok_iff {k : Bool → Instr} {j : Instr} {args : List Byte} :
    bitOperand k args = .ok j ↔ ∃ on : Bool, args = [if on then 1 else 0] ∧ k on = j := by
  rcases args with _ | ⟨b, _ | ⟨c, rest⟩⟩
  · simp [bitOperand]
  · by_cases h0 : b = 0#8
    · simp [bitOperand, h0]
    · by_cases h1 : b = 1#8 <;> simp [bitOperand, h0, h1]
  · simp [bitOperand]

theorem glyphOperands_eq_ok_iff {j : Instr} {args : List Byte} :
    glyphOperands args = .ok j ↔ ∃ slot glyph, args = slot :: glyph ∧ glyphOk glyph = true ∧ .createChar slot glyph = j := by
  cases args with
  | nil => simp [glyphOperands]
  | cons slot glyph => cases h : glyphOk glyph <;> simp [glyphOperands, h]

/-- `begin`'s operands are read back: each is presented less one and fits a byte (R120; log 6). -/
theorem decodeBegin_pred {cols rows : Nat} (h : (colsOk cols && rowsOk rows) = true) (size : CharSize) :
    decodeBegin (BitVec.ofNat 8 (cols - 1)) (BitVec.ofNat 8 (rows - 1)) size.toByte = .ok (.begin cols rows size) := by
  have hrange := h
  simp only [colsOk, rowsOk, Bool.and_eq_true, decide_eq_true_eq] at hrange
  have hcols : (BitVec.ofNat 8 (cols - 1)).toNat + 1 = cols := by rw [BitVec.toNat_ofNat]; omega
  have hrows : (BitVec.ofNat 8 (rows - 1)).toNat + 1 = rows := by rw [BitVec.toNat_ofNat]; omega
  rw [decodeBegin, hcols, hrows, if_pos h]
  cases size <;> rfl

theorem encodes_of_decodeBegin {x y z : Byte} {i : Instr} (h : decodeBegin x y z = .ok i) (c : Config) (backlight : Bool) :
    Encodes c backlight i (hostRequest .begin [x, y, z]) := by
  have pred (b : Byte) : BitVec.ofNat 8 (b.toNat + 1 - 1) = b := by simp
  unfold decodeBegin at h
  split at h
  · next hok =>
    split at h
    · next hz => cases h; exact ⟨hok, by simp only [encode, pred, hz]⟩
    split at h
    · next hz => cases h; exact ⟨hok, by simp only [encode, pred, hz]⟩
    · cases h
  · cases h

/-- What `begin`'s operands stand for is encoded with three of them, a `charSize` left out being 5x8 (R120, D19). -/
theorem encodes_of_beginOperands {args : List Byte} {i : Instr} (h : beginOperands args = .ok i) (c : Config)
    (backlight : Bool) :
    Encodes c backlight i (hostRequest .begin args) ∨
      ∃ x y, args = [x, y] ∧ Encodes c backlight i (hostRequest .begin [x, y, CharSize.dots5x8.toByte]) := by
  unfold beginOperands at h
  split at h
  · exact .inr ⟨_, _, rfl, encodes_of_decodeBegin h c backlight⟩
  · exact .inl (encodes_of_decodeBegin h c backlight)
  · cases h

/-- Of every operation but `begin` the operands read are those its encoding carries. -/
theorem encodes_of_decodeOperands {op : HostOp} (hop : op ≠ .begin) {args : List Byte} {i : Instr}
    (h : decodeOperands op args = .ok i) (c : Config) (backlight : Bool) : Encodes c backlight i (hostRequest op args) := by
  cases op with
  | begin => exact absurd rfl hop
  | command | writeData | write =>
    obtain ⟨b, rfl, rfl⟩ := oneOperand_eq_ok_iff.1 h
    exact ⟨rfl, rfl⟩
  | setCursor | getCharAt =>
    obtain ⟨col, row, rfl, rfl⟩ := twoOperands_eq_ok_iff.1 h
    exact ⟨rfl, rfl⟩
  | createChar =>
    obtain ⟨slot, glyph, rfl, hg, rfl⟩ := glyphOperands_eq_ok_iff.1 h
    exact ⟨hg, rfl⟩
  | setBacklight =>
    obtain ⟨on, rfl, rfl⟩ := bitOperand_eq_ok_iff.1 h
    exact ⟨rfl, rfl⟩
  | writeString =>
    cases h
    exact ⟨rfl, rfl⟩
  | clear | home | display | noDisplay | cursor | noCursor | blink | noBlink | leftToRight | rightToLeft | autoscroll
  | noAutoscroll | scrollDisplayLeft | scrollDisplayRight =>
    obtain ⟨rfl, rfl⟩ := noOperand_eq_ok_iff.1 h
    exact ⟨rfl, rfl⟩

/-! ## The round trips -/

/-- Settles O14: each format's decoder reads back what the encoder writes. -/
theorem decodeEncodeRoundTrip : Obligations.DecodeEncodeRoundTrip := by
  intro c backlight i hc hw he
  have host {op : HostOp} {args : List Byte} (h : decodeOperands op args = .ok i) :
      decode c backlight (hostRequest op args) = .ok i := (decode_hostRequest c backlight op args).trans h
  cases i with
  | clearDisplay | returnHome | wake | to4bit | dataByte => rfl
  | entryModeSet => exact decodeCmd8_entryModeFlags _ _
  | displayControl => exact decodeCmd8_displayFlags _ _ _
  | cursorDisplayShift => exact decodeCmd8_shiftByte _ _
  | functionSet => exact decodeCmd8_functionFlags _ _ _
  | setCgramAddress => exact decodeCmd8_cgramByte _
  | setDdramAddress => exact decodeCmd8_ddramByte _
  | portWord n e rw rs =>
    cases ht : c.transport with
    | gpio g => simp [Instr.existsOn, Config.hasPort, ht] at he
    | expander x =>
      simp only [encode, ht]
      exact decodePort8_portByte hc ht backlight n e rw rs
  | begin cols rows size => exact host (decodeBegin_pred hw size)
  | createChar slot glyph => exact host (glyphOperands_eq_ok_iff.2 ⟨slot, glyph, rfl, hw, rfl⟩)
  | setBacklight on => exact host (bitOperand_eq_ok_iff.2 ⟨on, rfl, rfl⟩)
  | _ => exact host rfl

/-- A word the block emits is one byte (log 25). -/
theorem eq_singleton_of_decode_wire {c : Config} {backlight : Bool} {format : Format} {bytes : List Byte} {i : Instr}
    (hf : format ≠ .hostOp) (h : decode c backlight ⟨format, bytes⟩ = .ok i) : ∃ b, bytes = [b] := by
  rcases bytes with _ | ⟨b, _ | ⟨b', rest⟩⟩
  · cases format <;> cases h
  · exact ⟨b, rfl⟩
  · cases format with
    | hostOp => exact absurd rfl hf
    | _ => cases h

/-- A word the block emits decodes only from its own encoding. -/
theorem encodes_of_decode_wire {c : Config} {backlight : Bool} {format : Format} {bytes : List Byte} {i : Instr}
    (hc : c.valid = true) (hf : format ≠ .hostOp) (h : decode c backlight ⟨format, bytes⟩ = .ok i) :
    Encodes c backlight i ⟨format, bytes⟩ := by
  obtain ⟨b, rfl⟩ := eq_singleton_of_decode_wire hf h
  cases format with
  | hostOp => exact absurd rfl hf
  | cmd8 => exact encodes_of_decodeCmd8 h c backlight
  | data8 => cases h; exact ⟨rfl, rfl⟩
  | nib4 => exact encodes_of_decodeNib4 h c backlight
  | port8 => exact encodes_of_decodePort8 hc h

/-- A host request that decodes has an operation's selector. -/
theorem hostRequest_of_decode {c : Config} {backlight : Bool} {bytes : List Byte} {i : Instr}
    (h : decode c backlight ⟨.hostOp, bytes⟩ = .ok i) :
    ∃ op args, (⟨.hostOp, bytes⟩ : Request) = hostRequest op args ∧ decodeOperands op args = .ok i := by
  cases bytes with
  | nil => cases h
  | cons sel args =>
    cases hop : HostOp.ofSelector sel.toNat with
    | none => simp [decode, hop] at h
    | some op =>
      rw [← selector_of_ofSelector hop] at h ⊢
      exact ⟨op, args, rfl, (decode_hostRequest c backlight op args).symm.trans h⟩

/-- Settles O15: what each format's decoder reads, the encoder wrote, but for a `begin` without its `charSize`. -/
theorem decodedWordIsItsEncoding : Obligations.DecodedWordIsItsEncoding := by
  intro c backlight ⟨format, bytes⟩ i hc h
  by_cases hf : format = .hostOp
  · subst hf
    obtain ⟨op, args, hr, hd⟩ := hostRequest_of_decode h
    rw [hr]
    by_cases hop : op = .begin
    · subst hop
      obtain ⟨hw, he⟩ | ⟨x, y, rfl, hw, he⟩ := encodes_of_beginOperands hd c backlight
      · exact ⟨hw, .inl he⟩
      · exact ⟨hw, .inr ⟨x, y, rfl, he⟩⟩
    · obtain ⟨hw, he⟩ := encodes_of_decodeOperands hop hd c backlight
      exact ⟨hw, .inl he⟩
  · obtain ⟨hw, he⟩ := encodes_of_decode_wire hc hf h
    exact ⟨hw, .inl he⟩

/-! ## The tables (R60, R71, R79) -/

/-- A command byte that decodes fits the match and mask of the row it is read as. -/
theorem match_of_decodeCmd8 {b : Byte} {i : Instr} (h : decodeCmd8 b = .ok i) (hi : Laws.TableBits.Statement i) :
    b &&& (Laws.TableBits.row i).2.2 = (Laws.TableBits.row i).2.1 := by
  obtain ⟨-, b', rest, hb, hm⟩ := hi Config.x27 false (by cases i <;> rfl)
  rw [(encodes_of_decodeCmd8 h Config.x27 false).2] at hb
  cases hb
  exact hm

/-- Settles O12: a byte read as a row fits it by the law of the table, and each byte that fits is checked. -/
theorem catalogueReadsByMatchAndMask : Obligations.CatalogueReadsByMatchAndMask := by
  intro b
  refine ⟨⟨fun h => match_of_decodeCmd8 h Laws.TableBits.clearDisplay, ?_⟩,
    ⟨fun h => match_of_decodeCmd8 h Laws.TableBits.returnHome, ?_⟩,
    ⟨fun h => match_of_decodeCmd8 h (Laws.TableBits.entryModeSet _ _), ?_⟩,
    ⟨fun h => match_of_decodeCmd8 h (Laws.TableBits.displayControl _ _ _), ?_⟩,
    ⟨fun h => match_of_decodeCmd8 h (Laws.TableBits.cursorDisplayShift _ _), ?_⟩,
    ⟨fun h => match_of_decodeCmd8 h (Laws.TableBits.functionSet _ _ _), ?_⟩,
    ⟨fun h => match_of_decodeCmd8 h (Laws.TableBits.setCgramAddress _), ?_⟩,
    ⟨fun h => match_of_decodeCmd8 h (Laws.TableBits.setDdramAddress _), ?_⟩, ?_⟩ <;>
  · revert b
    decide

/-- Settles O11: the command bytes and the nibble are evaluated, the request is an encoding. -/
theorem writtenOutWordsDecode : Obligations.WrittenOutWordsDecode :=
  fun c backlight => ⟨rfl, rfl, rfl, rfl, rfl, rfl, rfl, rfl, decode_hostRequest c backlight .setCursor [5, 2]⟩

/-- Settles O13: a selector names its operation, and no other byte does. -/
theorem selectorsNameTheOperations : Obligations.SelectorsNameTheOperations := by
  intro c backlight args
  refine ⟨fun op => decode_hostRequest c backlight op args, fun sel hsel => ?_, rfl⟩
  simp only [decode, ofSelector_unassigned hsel]

end Sys2Proof

namespace Sys2Proof.Machine

/-! ## Address arithmetic (R81, R183) -/

theorem clampRow_of_le {rows row : Nat} (h : rows ≤ row) : clampRow rows row = rows - 1 := by
  simp [clampRow, rowOutOfRange, h]

theorem clampRow_of_lt {rows row : Nat} (h : row < rows) : clampRow rows row = row := by
  simp [clampRow, rowOutOfRange, h]

theorem ddramAddress_toNat (rows : Nat) (col row : Byte) :
    (ddramAddress rows col row).toNat = (col.toNat + rowBase (clampRow rows row.toNat)) % 128 := by
  simp [ddramAddress]

theorem cgramAddress_toNat (slot : Byte) : (cgramAddress slot).toNat = 8 * (slot.toNat % 8) := by
  revert slot; decide

/-- Settles O39: 128 divides 256, and a row past the last is clamped to the last, which is in range. -/
theorem addressArithmetic : Obligations.AddressArithmetic := by
  refine ⟨fun rows col row => ⟨ddramAddress_toNat rows col row, ?_⟩, fun rows col row h1 h4 hrow => ?_, cgramAddress_toNat⟩
  · rw [Nat.mod_mod_of_dvd _ (by decide), ddramAddress_toNat]
  · have hlast : (BitVec.ofNat 8 (rows - 1)).toNat = rows - 1 := by rw [BitVec.toNat_ofNat]; omega
    rw [ddramAddress, ddramAddress, clampRow_of_le hrow, hlast, clampRow_of_lt (by omega)]

/-! ## The words the block emits (R60 to R73; log 9, log 10) -/

/-- A word whose meaning is to perform `es` emits exactly `es`. -/
theorem emitsExactly_of_performs {i : Instr} {s t : State} {es : List Emission} (h : exec i s = .next t)
    (ht : ∃ evs, Performs s t evs ∧ emissions evs = es) : EmitsExactly i s es := by
  obtain ⟨evs, hp, m⟩ := ht
  exact ⟨t, evs, h, hp, m⟩

/-! The bytes of R63 to R68 as the statements write them. -/

theorem entryModeByte_eq (inc shift : Bool) :
    entryModeByte (entryModeFlags inc shift) = 0x04 ||| (if inc then 0x02 else 0) ||| (if shift then 0x01 else 0) :=
  (BitVec.or_assoc _ _ _).symm

theorem displayControlByte_eq (d cu bl : Bool) :
    displayControlByte (displayFlags d cu bl) =
      0x08 ||| (if d then 0x04 else 0) ||| (if cu then 0x02 else 0) ||| (if bl then 0x01 else 0) := by
  simp only [displayControlByte, displayFlags, ← BitVec.or_assoc]
  rfl

theorem functionSetByte_eq (w n f : Bool) :
    functionSetByte (functionFlags w n f) =
      0x20 ||| (if w then 0x10 else 0) ||| (if n then 0x08 else 0) ||| (if f then 0x04 else 0) := by
  simp only [functionSetByte, functionFlags, ← BitVec.or_assoc]
  rfl

/-- The base of the address bytes has no bit of the address, so OR adds. -/
theorem cgramByte_eq_add (a : BitVec 6) : cgramByte a = BitVec.ofNat 8 (0x40 + a.toNat) := by
  revert a; decide

theorem ddramByte_eq_add (a : BitVec 7) : ddramByte a = BitVec.ofNat 8 (0x80 + a.toNat) := by
  revert a; decide

/-- Settles O19: each row sends its byte, Clear display and Return home with their wait. -/
theorem catalogueBytesAreSent : Obligations.CatalogueBytesAreSent := by
  intro s
  have command {i : Instr} {b b' : Byte} (hb : b = b') (h : exec i s = .next (sendCommand b s)) :
      EmitsExactly i s (byteEmissions s.config s.backlight false b') :=
    hb ▸ emitsExactly_of_performs h (send_performs b false s)
  exact ⟨emitsExactly_of_performs rfl (sendWait_performs clearByte T_CLEAR s),
    emitsExactly_of_performs rfl (sendWait_performs homeByte T_HOME s),
    fun inc shift => command (entryModeByte_eq inc shift) rfl,
    fun d cu bl => command (displayControlByte_eq d cu bl) rfl,
    fun m r => command (b := shiftByte m r) rfl rfl,
    fun w n f => command (functionSetByte_eq w n f) rfl,
    fun a => command (cgramByte_eq_add a) rfl,
    fun a => command (ddramByte_eq_add a) rfl⟩

/-- Settles O20: a data byte is one `send` with RS = 1, WAKE and TO4BIT one nibble each. -/
theorem dataByteAndWakeNibblesAreSent : Obligations.DataByteAndWakeNibblesAreSent :=
  fun s => ⟨fun b => emitsExactly_of_performs rfl (send_performs b true s),
    emitsExactly_of_performs rfl (sendNibble_performs wakeNibble s),
    emitsExactly_of_performs rfl (sendNibble_performs to4bitNibble s)⟩

/-! ## The port word (R73, R74, R91) -/

theorem emitsExactly_portWord {s : State} {x : ExpanderCfg} (ht : s.config.transport = .expander x) (n : Nibble)
    (e rw rs : Bool) :
    EmitsExactly (.portWord n e rw rs) s [.busWrite x.addr7 (x.portByte n e rw rs s.blLevel)] := by
  obtain ⟨ack, f, he⟩ := busWrite_emits x.addr7 (x.portByte n e rw rs s.blLevel) s
  refine ⟨_, [.busWrite x.addr7 (x.portByte n e rw rs s.blLevel) ack], ?_, he.noted, rfl⟩
  simp [exec, execPortWord, ht, f, Event.failed]

/-- An active-low backlight line is driven to the opposite of the bit (R91). -/
theorem blLevel_eq_xor (c : Config) (on : Bool) : c.blLevel on = xor on (decide (c.polarity = .activeLow)) := by
  unfold Config.blLevel
  cases c.polarity <;> simp

/-- With the mapping of the source's scenario 2 the fields lie side by side (R73). -/
theorem portByte_scenario2 (a : BitVec 7) (n : Nibble) (e rw rs bl : Bool) :
    ExpanderCfg.portByte { addr7 := a, pRs := 0, pRw := 1, pE := 2, pBl := 3, pD4 := 4, pD5 := 5, pD6 := 6, pD7 := 7 } n e rw rs bl
      = n.setWidth 8 <<< 4 ||| (if bl then 1#8 else 0) <<< 3 ||| (if e then 1#8 else 0) <<< 2 ||| (if rw then 1#8 else 0) <<< 1
        ||| (if rs then 1#8 else 0) := by
  simp only [ExpanderCfg.portByte, ExpanderCfg.dataBits]
  revert n e rw rs bl
  decide

/-- Settles O21: the one word written is `portByte`, whose fields are read at their positions. -/
theorem portWordCarriesItsFields : Obligations.PortWordCarriesItsFields := by
  refine ⟨fun s x n e rw rs ht hc => ?_, portByte_scenario2, fun s g n e rw rs ht => ?_⟩
  · obtain ⟨hrs, hrw, he, hbl, hdata⟩ := portByte_fields (s.config.valid_expander hc ht) n e rw rs s.blLevel
    exact ⟨_, emitsExactly_portWord ht n e rw rs, hrs, hrw, he, hbl.trans (blLevel_eq_xor _ _), hdata⟩
  · simp only [exec, execPortWord, ht]

end Sys2Proof.Machine

/-! The family of spec/40_transport.md. The events of a transport primitive are read off its emissions, which leave only the
environment's answers open. A nibble's emissions are one set-up part and the drives of E alone; what each does to the lines is
said once, in both variants. -/

namespace Sys2Proof.Machine

/-! ## Events from their emissions (R6, R56) -/

@[simp] theorem emission_eq_busWrite_iff {e : Event} {a : BitVec 7} {w : Byte} :
    e.emission = .busWrite a w ↔ ∃ ack, e = .busWrite a w ack := by
  cases e <;> simp [Event.emission]

@[simp] theorem emission_eq_busRead_iff {e : Event} {a : BitVec 7} :
    e.emission = .busRead a ↔ ∃ answer, e = .busRead a answer := by
  cases e <;> simp [Event.emission]

@[simp] theorem emission_eq_delay_iff {e : Event} {us : Nat} : e.emission = .delay us ↔ e = .delay us := by
  cases e <;> simp [Event.emission]

@[simp] theorem readAnswersOf_nil : readAnswersOf [] = [] := rfl

@[simp] theorem readAnswersOf_cons (e : Event) (es : List Event) :
    readAnswersOf (e :: es) = e.readAnswer.toList ++ readAnswersOf es := by
  cases h : e.readAnswer <;> simp [readAnswersOf, h]

/-- The events of a nibble written on the bus, but for the three answers (R93). -/
theorem events_of_nibbleEmissions {evs : List Event} {c : Config} {x : ExpanderCfg} (ht : c.transport = .expander x)
    {backlight : Bool} {n : Nibble} {rs : Bool} {w : Byte} (hw : w = x.portByte n false false rs (c.blLevel backlight))
    (h : emissions evs = nibbleEmissions c backlight n rs) :
    ∃ r1 r2 r3, evs = [.busWrite x.addr7 w r1, .busWrite x.addr7 (w ||| 1#8 <<< x.pE.val) r2, .delay 1,
      .busWrite x.addr7 w r3, .delay 37] := by
  simp only [nibbleEmissions, ht, ← portByte_enable, ← hw, emissions, List.map_eq_cons_iff, List.map_eq_nil_iff,
    emission_eq_busWrite_iff, emission_eq_delay_iff] at h
  obtain ⟨_, _, rfl, ⟨r1, rfl⟩, _, _, rfl, ⟨r2, rfl⟩, _, _, rfl, rfl, _, _, rfl, ⟨r3, rfl⟩, _, _, rfl, rfl, rfl⟩ := h
  exact ⟨r1, r2, r3, rfl⟩

/-- The events of a read strobe, but for the four answers (R99). -/
theorem events_of_readEmissions {evs : List Event} {x : ExpanderCfg} {bl rs : Bool} {w : Byte}
    (hw : w = x.portByte 0xF false true rs bl) (h : emissions evs = readEmissions x bl rs) :
    ∃ r1 r2 b r3, evs = [.busWrite x.addr7 w r1, .busWrite x.addr7 (w ||| 1#8 <<< x.pE.val) r2, .delay 1,
      .busRead x.addr7 b, .busWrite x.addr7 w r3, .delay 37] := by
  simp only [readEmissions, ← portByte_enable, ← hw, emissions, List.map_eq_cons_iff, List.map_eq_nil_iff,
    emission_eq_busWrite_iff, emission_eq_busRead_iff, emission_eq_delay_iff] at h
  obtain ⟨_, _, rfl, ⟨r1, rfl⟩, _, _, rfl, ⟨r2, rfl⟩, _, _, rfl, rfl, _, _, rfl, ⟨b, rfl⟩, _, _, rfl, ⟨r3, rfl⟩, _, _, rfl,
    rfl, rfl⟩ := h
  exact ⟨r1, r2, b, r3, rfl⟩

/-! ## The primitives on the bus and on pins (R93, R94, R99) -/

/-- Settles O22: the events are those of the nibble's emissions, with the answers the environment gave. -/
theorem nibbleOnTheBus : Obligations.NibbleOnTheBus := by
  intro x n rs s ht hc
  obtain ⟨evs, hf, he, hm⟩ := writeNibble_emits n rs s
  obtain ⟨r1, r2, r3, rfl⟩ := events_of_nibbleEmissions ht rfl hm
  obtain ⟨hrs, hrw, hE, hbl, hdata⟩ :=
    portByte_fields (s.config.valid_expander hc ht) n false false rs (s.config.blLevel s.backlight)
  have hfail : (writeNibble n rs s).1 = !(r1 && r2 && r3) := by simp [hf, Event.failed, Bool.or_assoc]
  refine ⟨_, r1, r2, r3, (writeNibble n rs s).2, Prod.ext hfail rfl, ?_, he.writes, hE, hrw, hrs,
    hbl.trans (blLevel_eq_xor _ _), hdata⟩
  exact he.state

@[simp] theorem emitOptionalPin_env (p : Option Nat) (v : Bool) (s : State) : (emitOptionalPin p v s).env = s.env := by
  cases p <;> rfl

/-- Pins draw no answer from the environment (R94, R98). -/
theorem writeNibbleGpio_env (g : GpioCfg) (n : Nibble) (rs : Bool) (s : State) : (writeNibbleGpio g n rs s).env = s.env := by
  simp [writeNibbleGpio]

/-- Settles O23: the pins are driven in order, and nothing but the trace differs. -/
theorem nibbleOnThePins : Obligations.NibbleOnThePins := by
  intro g n rs s ht
  have hstate := (writeNibbleGpio_emits g n rs s).state
  rw [writeNibbleGpio_env, ← List.append_assoc, ← List.append_assoc] at hstate
  simp only [writeNibble, ht]
  rw [hstate]

/-- Settles O26: the events are those of the read strobe's emissions, and the nibble of a read that did not fail is the one
on the data lines of the byte read. -/
theorem readStrobeOnTheBus : Obligations.ReadStrobeOnTheBus := by
  intro x rs s ht hc
  obtain ⟨evs, hf, he, hm, hnibble⟩ := read4bits_emits x rs s
  obtain ⟨r1, r2, b, r3, rfl⟩ := events_of_readEmissions rfl hm
  obtain ⟨hrs, hrw, hE, hbl, h4, h5, h6, h7⟩ :=
    portByte_fields (s.config.valid_expander hc ht) 0xF false true rs s.blLevel
  have hfail : (read4bits x rs s).failed = !(r1 && r2 && r3 && b.isSome) := by
    rw [hf]
    cases b <;> simp [Event.failed, Bool.or_assoc]
  refine ⟨_, r1, r2, r3, b, _, rfl, hfail, he.state, hE, hrw, hrs, hbl.trans (blLevel_eq_xor _ _), h4, h5, h6, h7, ?_⟩
  rintro v hok rfl
  obtain ⟨v', hv', hn⟩ := hnibble (hf ▸ hok)
  obtain rfl : v = v' := by simpa [Event.readAnswer] using hv'
  rw [hn]
  exact getLsbD_nibbleOf _ _ _ _

/-! ## The E-strobe on the lines (R95) -/

/-- What a nibble emits before E rises (R93, R94). -/
def nibbleSetup (c : Config) (backlight : Bool) (n : Nibble) (rs : Bool) : List Emission :=
  match c.transport with
  | .expander x => [.busWrite x.addr7 (x.portByte n false false rs (c.blLevel backlight))]
  | .gpio g => [.pinWrite g.pinRs rs] ++ (g.pinRw.toList.map fun p => .pinWrite p false)
      ++ [.pinWrite g.pinD4 (n.getLsbD 0), .pinWrite g.pinD5 (n.getLsbD 1), .pinWrite g.pinD6 (n.getLsbD 2),
        .pinWrite g.pinD7 (n.getLsbD 3)]

/-- The event by which a nibble drives E to the level `e` (R93, R94). -/
def nibbleDriveE (c : Config) (backlight : Bool) (n : Nibble) (rs e : Bool) : Emission :=
  match c.transport with
  | .expander x => .busWrite x.addr7 (x.portByte n e false rs (c.blLevel backlight))
  | .gpio g => .pinWrite g.pinE e

/-- The lines a nibble holds while E is at the level `e`: the backlight is composed on an Expander, untouched on pins
(R95 (d), (e)). -/
def nibbleLines (c : Config) (backlight : Bool) (n : Nibble) (rs bl e : Bool) : Lines where
  rs := rs
  rw := false
  e := e
  bl := if c.hasPort then c.blLevel backlight else bl
  d4 := n.getLsbD 0
  d5 := n.getLsbD 1
  d6 := n.getLsbD 2
  d7 := n.getLsbD 3

theorem nibbleEmissions_eq_setup (c : Config) (backlight : Bool) (n : Nibble) (rs : Bool) :
    nibbleEmissions c backlight n rs = nibbleSetup c backlight n rs ++
      [nibbleDriveE c backlight n rs true, .delay 1, nibbleDriveE c backlight n rs false, .delay 37] := by
  unfold nibbleEmissions nibbleSetup nibbleDriveE
  cases c.transport with
  | expander x => rfl
  | gpio g => simp only [List.append_assoc, List.cons_append, List.nil_append]

/-- On an Expander each part of a nibble is one write, the last word the first (R95 (b)). -/
theorem nibble_three_writes {c : Config} (hp : c.hasPort = true) (backlight : Bool) (n : Nibble) (rs : Bool) :
    ∃ a w w', nibbleSetup c backlight n rs = [.busWrite a w] ∧ nibbleDriveE c backlight n rs true = .busWrite a w' ∧
      nibbleDriveE c backlight n rs false = .busWrite a w := by
  unfold nibbleSetup nibbleDriveE
  cases ht : c.transport with
  | expander x => exact ⟨_, _, _, rfl, rfl, rfl⟩
  | gpio g => simp [Config.hasPort, ht] at hp

section
variable {c : Config} (hc : c.valid = true)
include hc

/-- The set-up part puts the nibble, RS and RW on the lines and leaves E low. -/
theorem linesAfterAll_nibbleSetup (backlight : Bool) (n : Nibble) (rs : Bool) {l : Lines} (hl : l.e = false) :
    linesAfterAll c.transport l (nibbleSetup c backlight n rs) = nibbleLines c backlight n rs l.bl false := by
  unfold nibbleSetup nibbleLines Config.hasPort
  cases ht : c.transport with
  | expander x => simp [linesAfterAll, linesAfter, portLines_portByte (c.valid_expander hc ht)]
  | gpio g =>
    have hg := c.valid_gpio hc ht
    have sym (p q : Nat) (h : ¬p = q) : (q = p) = False := eq_false (Ne.symm h)
    obtain ⟨pRs, pRw, pE, p4, p5, p6, p7, pBl⟩ := g
    cases pRw <;> cases pBl <;>
    · simp only [gpioPins, Option.toList, List.nil_append, List.cons_append, List.append_nil, List.nodup_cons, List.mem_cons,
        List.not_mem_nil, or_false, not_or] at hg
      simp [linesAfterAll, linesAfter, pinLines, drivenBit, hg, hl, sym]

/-- Driving E changes no other line (R95 (d)). -/
theorem linesAfter_nibbleDriveE (backlight : Bool) (n : Nibble) (rs bl e e' : Bool) :
    linesAfter c.transport (nibbleLines c backlight n rs bl e) (nibbleDriveE c backlight n rs e') =
      nibbleLines c backlight n rs bl e' := by
  unfold nibbleDriveE nibbleLines Config.hasPort
  cases ht : c.transport with
  | expander x => simp [linesAfter, portLines_portByte (c.valid_expander hc ht)]
  | gpio g =>
    have hg := c.valid_gpio hc ht
    have sym (p q : Nat) (h : ¬p = q) : (q = p) = False := eq_false (Ne.symm h)
    obtain ⟨pRs, pRw, pE, p4, p5, p6, p7, pBl⟩ := g
    cases pRw <;> cases pBl <;>
    · simp only [gpioPins, Option.toList, List.nil_append, List.cons_append, List.append_nil, List.nodup_cons, List.mem_cons,
        List.not_mem_nil, or_false, not_or] at hg
      simp [linesAfter, pinLines, drivenBit, hg, sym]

end

/-- Settles O24: the lines held are `nibbleLines`, of which E alone changes; the edges are those of the nibble's one strobe. -/
theorem strobeHoldsItsLines : Obligations.StrobeHoldsItsLines := by
  intro n rs s hc
  obtain ⟨evs, -, he, hm⟩ := writeNibble_emits n rs s
  refine ⟨evs, nibbleSetup s.config s.backlight n rs, nibbleDriveE s.config s.backlight n rs true,
    nibbleDriveE s.config s.backlight n rs false, by rw [he.state], he.backlight, he.config,
    hm.trans (nibbleEmissions_eq_setup ..), fun hp => nibble_three_writes hp s.backlight n rs, fun l hl => ?_⟩
  obtain ⟨hstrobes, hrising, -⟩ := strobesOf_nibble hc s.backlight n rs l hl
  have hsetup := linesAfterAll_nibbleSetup hc s.backlight n rs hl
  have hdrive := linesAfter_nibbleDriveE hc s.backlight n rs l.bl
  refine ⟨nibbleLines s.config s.backlight n rs l.bl false, rfl, rfl, rfl, nibbleOf_getLsbD n, fun hp => if_pos hp,
    fun hp => if_neg (by simp [hp]), hsetup, ?_, ?_, hm ▸ hstrobes, hm ▸ hrising⟩
  · rw [linesAfterAll_append, hsetup]
    exact hdrive false true
  · rw [linesAfterAll_append, hsetup]
    change linesAfter _ (linesAfter _ (linesAfter _ _ _) (.delay 1)) _ = _
    rw [hdrive false true]
    exact hdrive true false

end Sys2Proof.Machine

/-! The family of spec/41_framing.md. `send` performs the emissions of its byte (`send_performs`), so what a byte does is read off
these: its strobes, waits and bus writes. `command` and `writeData` are the `misuse` check and one `send`. -/

namespace Sys2Proof.Machine

/-! ## A byte (R110) -/

/-- On an Expander a nibble is the three writes of a strobe (R93, R114). -/
theorem busWrites_nibble {c : Config} (hp : c.hasPort = true) (backlight : Bool) (n : Nibble) (rs : Bool) :
    busWrites (nibbleEmissions c backlight n rs) = 3 := by
  unfold nibbleEmissions
  cases ht : c.transport with
  | expander x => rfl
  | gpio g => simp [Config.hasPort, ht] at hp

theorem busWrites_byte {c : Config} (hp : c.hasPort = true) (backlight rs : Bool) (b : Byte) :
    busWrites (byteEmissions c backlight rs b) = 6 := by
  simp [byteEmissions, busWrites_nibble hp]

/-- The two strobes of a byte with its nibbles as the statements write them (R72, R75 (e)). -/
theorem strobesOf_byte_extract {c : Config} (hc : c.valid = true) (backlight rs : Bool) (b : Byte) :
    StrobesOf c.transport (byteEmissions c backlight rs b)
      [⟨b.extractLsb' 4 4, rs, false⟩, ⟨b.extractLsb' 0 4, rs, false⟩] :=
  byteStrobes_eq_extract rs b ▸ strobesOf_byte hc backlight rs b

/-- Settles O25: `send` performs the emissions of its byte, whose strobes, waits and writes are counted. -/
theorem byteIsTwoStrobes : Obligations.ByteIsTwoStrobes := by
  intro b rs s hc
  obtain ⟨evs, h, m⟩ := send_performs b rs s
  have hstrobes := (strobes_iff m).2 (strobesOf_byte_extract hc s.backlight rs b)
  refine ⟨evs, h, m, hstrobes, ?_, fun hp => ?_⟩
  · rw [m, totalWait_byte]
  · rw [m, busWrites_byte hp]

/-! ## `command` and `writeData` (R111, R112) -/

/-- An operation that starts with the `misuse` check is the fault before `begin` (R182). -/
theorem misusedBeforeBegin_of_requireReady {i : Instr} {op : HostOp} {body : State → State → Result}
    (h : ∀ s, exec i s = requireReady op s (body s)) : MisusedBeforeBegin i op :=
  fun s hs => (h s).trans (requireReady_uninitialized op hs (body s))

theorem exec_command (b : Byte) (s : State) :
    exec (.command b) s = requireReady .command s fun u => returning .nothing (send b false u) := rfl

theorem exec_writeData (b : Byte) (s : State) : exec (.writeData b) s = writeOne .writeData b s := rfl

/-- Settles O28: in Ready `command` is one `send` with RS = 0. -/
theorem commandSendsTheByteRaw : Obligations.CommandSendsTheByteRaw := by
  refine fun b => ⟨misusedBeforeBegin_of_requireReady (exec_command b), fun s hs => ?_⟩
  obtain ⟨evs, h, m⟩ := send_performs b false (clearOpFail s)
  refine ⟨send b false (clearOpFail s), evs, ?_, h, m⟩
  rw [exec_command, requireReady_ready _ hs, returning]

/-- In Ready `writeData`, under either name, returns by whether its own events failed: `opFail` was cleared before them
(R112, D30). -/
theorem writeOne_ready {op : HostOp} {b : Byte} {s : State} (hs : s.phase = .ready) {evs : List Event}
    (h : Completes s (send b true (clearOpFail s)) evs) :
    writeOne op b s = .next { send b true (clearOpFail s) with ret := .accepted (if anyFailed evs then 0 else 1) } := by
  have hfail : (send b true (clearOpFail s)).opFail = anyFailed evs := h.opFail
  simp only [writeOne, requireReady_ready op hs, hfail, returning]

/-- Settles O29: in Ready `writeData` is one `send` with RS = 1; on a Gpio instance that makes no bus transaction. -/
theorem writeDataReturnsOneOrZero : Obligations.WriteDataReturnsOneOrZero := by
  refine fun b => ⟨misusedBeforeBegin_of_requireReady (exec_writeData b), fun s hs => ?_⟩
  obtain ⟨evs, h, m⟩ := send_performs b true (clearOpFail s)
  refine ⟨send b true (clearOpFail s), evs, writeOne_ready hs h, h, m, fun hp => anyFailed_eq_false ?_⟩
  rw [m]
  exact emittedBy_onBus (i := .dataByte b) (s := clearOpFail s) hp

/-! ## `getCharAt` (R99, R113) -/

/-- The two read strobes of `getCharAt`: RS and RW high, the data lines high (R99, R174). -/
theorem strobesOf_readByte {s : State} {x : ExpanderCfg} (hc : s.config.valid = true) (hx : s.config.transport = .expander x) :
    StrobesOf s.config.transport (readByteEmissions s) [⟨0xF, true, true⟩, ⟨0xF, true, true⟩] := by
  have hread := strobesOf_read (s.config.valid_expander hc hx) s.blLevel true
  rw [readByteEmissions, hx]
  exact hread.append hread

/-- Settles O54: `getCharAt` emits a Set DDRAM address byte, and on the Expander it needs two reads. -/
theorem getCharAtMakesFourStrobes : Obligations.GetCharAtMakesFourStrobes := by
  intro col row s t _ hc h
  obtain ⟨evs, hr⟩ := exec_runs h
  obtain ⟨hcan, -⟩ := (execGetCharAt_completes_iff col row s).1 ⟨t, h⟩
  cases hx : s.config.transport with
  | gpio g => simp [Config.canRead, hx] at hcan
  | expander x =>
    have haddress := strobesOf_byte_extract hc s.backlight false (ddramByte (ddramAddress s.rows col row))
    exact ⟨evs, _, hr.trace, ⟨_, decodeCmd8_ddramByte _⟩,
      (strobes_iff hr.emitted).2 (haddress.append (strobesOf_readByte hc hx))⟩

end Sys2Proof.Machine

/-! The family of spec/42_init.md. `begin` is answered once in each phase and for ill-typed operands; from Uninitialized its
events are `beginEmissions`, of which the strobes, waits, bus writes and backlight bits are read off part by part. -/

namespace Sys2Proof.Machine

/-! ## `begin` in each phase (R120, R184) -/

theorem begin_operandsOk {cols rows : Nat} (hc : 1 ≤ cols) (hc' : cols ≤ 40) (hr : 1 ≤ rows) (hr' : rows ≤ 4) :
    colsOk cols = true ∧ rowsOk rows = true := by
  simp [colsOk, rowsOk, hc, hc', hr, hr']

theorem begin_illTyped {cols rows : Nat} (h : cols = 0 ∨ 40 < cols ∨ rows = 0 ∨ 4 < rows) :
    ¬(colsOk cols && rowsOk rows) = true := by
  simp only [colsOk, rowsOk, Bool.and_eq_true, decide_eq_true_eq]
  omega

theorem exec_begin_illTyped {cols rows : Nat} (h : cols = 0 ∨ 40 < cols ∨ rows = 0 ∨ 4 < rows) (cs : CharSize) (s : State) :
    exec (.begin cols rows cs) s = .refused (.illTyped .illTypedOperands) :=
  if_neg (begin_illTyped h)

section
variable {cols rows : Nat} {s : State} (hc : colsOk cols = true) (hr : rowsOk rows = true)
include hc hr

theorem exec_begin_completes (cs : CharSize) (s : State) : ∃ t, exec (.begin cols rows cs) s = .next t :=
  (execBegin_completes_iff cols rows cs s).2 (by rw [hc, hr]; rfl)

theorem exec_begin_ready (hs : s.phase = .ready) (cs : CharSize) :
    exec (.begin cols rows cs) s = .next { s with ret := .status false } := by
  obtain ⟨t, ht⟩ := exec_begin_completes hc hr cs s
  rw [ht, execBegin_ready hs ht]

/-- `begin` from Uninitialized ends in the last transition of the machine of R124 after the ten steps. -/
theorem exec_begin_uninitialized (hs : s.phase = .uninitialized) (cs : CharSize) :
    exec (.begin cols rows cs) s = .next (seqComplete (beginSequence (captureBegin cols rows cs s))) := by
  obtain ⟨t, ht⟩ := exec_begin_completes hc hr cs s
  rw [ht, execBegin_uninitialized hs ht]

end

/-- Settles O44: in Ready only the value returned is written, and the operands are checked before the phase. -/
theorem beginInReadyFailsAtOnce : Obligations.BeginInReadyFailsAtOnce := by
  refine fun cols rows cs s => ⟨fun hc hc' hr hr' hs => ?_, fun h => exec_begin_illTyped h cs s⟩
  obtain ⟨hcols, hrows⟩ := begin_operandsOk hc hc' hr hr'
  exact exec_begin_ready hcols hrows hs cs

/-! ## The events of `begin` (R121 to R123) -/

/-- The function set captured, as the statements write it (R121). -/
theorem captureFunctionSet_eq (rows : Nat) (cs : CharSize) :
    captureFunctionSet rows cs = (if rows > 1 then 0x08 else 0) ||| (if cs = .dots5x10 then 0x04 else 0) := by
  simp [captureFunctionSet, functionFlags, bitIf, FS_2LINE, FS_5x10]

theorem emittedBy_begin_uninitialized {s : State} (hs : s.phase = .uninitialized) (cols rows : Nat) (cs : CharSize) :
    emittedBy (.begin cols rows cs) s = beginEmissions s (captureFunctionSet rows cs) := by
  simp only [emittedBy, hs]

/-- What the ten steps perform from the captured operands, as `emittedBy` names it. -/
theorem beginSequence_performs_emittedBy {s : State} (hs : s.phase = .uninitialized) (cols rows : Nat) (cs : CharSize) :
    ∃ evs, Performs (beginShadows cols rows cs s) (beginSequence (captureBegin cols rows cs s)) evs ∧
      emissions evs = emittedBy (.begin cols rows cs) s := by
  rw [emittedBy_begin_uninitialized hs]
  exact beginSequence_performs (captureBegin cols rows cs s)

/-- Both the phase and the value returned are decided by `opFail` (R123). -/
theorem seqComplete_eq {u : State} (hu : u.phase = .uninitialized) :
    seqComplete u = { u with phase := if u.opFail then .uninitialized else .ready, ret := .status (!u.opFail) } := by
  rw [seqComplete, beginDone, hu]

/-- Settles O42: the ten steps perform their events from the captured operands, and the last transition decides by the failures
among these, `opFail` having been cleared before them. -/
theorem beginRunsTheTenSteps : Obligations.BeginRunsTheTenSteps := by
  intro cols rows cs s hc hc' hr hr' hs
  obtain ⟨hcols, hrows⟩ := begin_operandsOk hc hc' hr hr'
  obtain ⟨evs, hp, m⟩ := beginSequence_performs_emittedBy hs cols rows cs
  have hfail : (beginSequence (captureBegin cols rows cs s)).opFail = anyFailed evs := hp.opFail
  refine ⟨captureFunctionSet rows cs, beginSequence (captureBegin cols rows cs s), evs, captureFunctionSet_eq rows cs, ?_, hp,
    m.trans (emittedBy_begin_uninitialized hs cols rows cs), fun hport => anyFailed_eq_false (m ▸ emittedBy_onBus hport)⟩
  rw [exec_begin_uninitialized hcols hrows hs, seqComplete_eq ((beginSequence_phase cols rows cs s).trans hs), hfail]

/-! ## The handshake on the lines (R125, R126) -/

/-- Parts that each make their strobes make them in order when joined. -/
theorem StrobesOf.flatten {t : Transport} {parts : List (List Emission)} {frames : List (List Strobe)}
    (h : List.Forall₂ (StrobesOf t) parts frames) : StrobesOf t parts.flatten frames.flatten := by
  induction h with
  | nil => exact .nil t
  | cons hpart _ ih => exact hpart.append ih

/-- The two strobes of the captured function set (R125: `2 F`). -/
theorem byteStrobes_functionSet (rows : Nat) (cs : CharSize) :
    byteStrobes false (0x20 ||| captureFunctionSet rows cs) = [⟨0x2, false, false⟩,
      ⟨(if rows > 1 then 0x8 else 0) ||| (if cs = .dots5x10 then 0x4 else 0), false, false⟩] := by
  rw [captureFunctionSet_eq]
  split <;> split <;> rfl

/-- The strobes of the ten steps: the wake-up nibbles one each, the bytes two each, the waits none. -/
theorem strobesOf_begin {s : State} (hc : s.config.valid = true) (functionSet : Byte) :
    StrobesOf s.config.transport (beginEmissions s functionSet)
      ([[], [⟨0x3, false, false⟩], [], [⟨0x3, false, false⟩], [], [⟨0x3, false, false⟩], [], [⟨0x2, false, false⟩], [],
        byteStrobes false (0x20 ||| functionSet), byteStrobes false 0x08, byteStrobes false 0x01, [],
        byteStrobes false 0x06, byteStrobes false 0x0C] : List (List Strobe)).flatten := by
  have hdelay (us : Nat) := StrobesOf.delay s.config.transport us
  have hnibble (n : Nibble) := strobesOf_nibble hc s.backlight n false
  have hbyte (b : Byte) : StrobesOf s.config.transport (commandEmissions s b) (byteStrobes false b) :=
    strobesOf_byte hc s.backlight false b
  exact .flatten <| .cons (hdelay _) <| .cons (hnibble _) <| .cons (hdelay _) <| .cons (hnibble _) <| .cons (hdelay _) <|
    .cons (hnibble _) <| .cons (hdelay _) <| .cons (hnibble _) <| .cons (hdelay _) <| .cons (hbyte _) <| .cons (hbyte _) <|
    .cons (hbyte _) <| .cons (hdelay _) <| .cons (hbyte _) <| .cons (hbyte _) .nil

/-- The waits of the ten steps, those inside their nibbles included (R126). -/
theorem totalWait_begin (s : State) (functionSet : Byte) : totalWait (beginEmissions s functionSet) = 47482 := by
  simp [beginEmissions, commandEmissions, totalWait_nibble, totalWait_byte, Emission.waits]

theorem busWrites_delay_cons (us : Nat) (es : List Emission) : busWrites (.delay us :: es) = busWrites es := by
  simp [busWrites, Emission.isBusWrite]

/-- Fourteen nibbles of three writes each (R126). -/
theorem busWrites_begin {s : State} (hp : s.config.hasPort = true) (functionSet : Byte) :
    busWrites (beginEmissions s functionSet) = 42 := by
  simp [beginEmissions, commandEmissions, busWrites_nibble hp, busWrites_byte hp, busWrites_delay_cons]

/-- Every word an instruction writes on the bus carries the backlight line's level, but for the flush that changes it (R217). -/
theorem backlightBit_of_mem_emittedBy {i : Instr} {s : State} {x : ExpanderCfg} (hc : s.config.valid = true)
    (hx : s.config.transport = .expander x) (hi : i.hostOp ≠ some .setBacklight) {a : BitVec 7} {w : Byte}
    (h : .busWrite a w ∈ emittedBy i s) : w.getLsbD x.pBl = s.blLevel := by
  have hbit (n : Nibble) (e rw rs bl : Bool) : (x.portByte n e rw rs bl)[x.pBl.val] = bl := by
    obtain ⟨-, -, -, hbl, -⟩ := portByte_fields (s.config.valid_expander hc hx) n e rw rs bl
    simpa using hbl
  refine forall_mem_emittedBy (P := fun e => ∀ a w, e = .busWrite a w → w.getLsbD x.pBl = s.blLevel)
    ?_ ?_ ?_ ?_ ?_ _ h a w rfl
  · simp
  · intro n rs
    simp [nibbleEmissions, hx, hbit, State.blLevel]
  · simp [readByteEmissions, readEmissions, hx, hbit]
  · simp [portEmissions, hx, hbit]
  · rintro on rfl
    exact absurd rfl hi

/-- Settles O43: the emissions of `begin` are those of the ten steps, whose strobes, waits and writes are counted. -/
theorem handshakeOnTheLines : Obligations.HandshakeOnTheLines := by
  intro cols rows cs s hc hc' hr hr' hs hvalid
  obtain ⟨hcols, hrows⟩ := begin_operandsOk hc hc' hr hr'
  obtain ⟨evs, hp, m⟩ := beginSequence_performs_emittedBy hs cols rows cs
  have m' := m.trans (emittedBy_begin_uninitialized hs cols rows cs)
  refine ⟨_, evs, exec_begin_uninitialized hcols hrows hs cs, hp.trace, (strobes_iff m').2 ?_, m' ▸ totalWait_begin ..,
    fun x hx => ⟨m' ▸ busWrites_begin (by simp [Config.hasPort, hx]) _, fun a w ack hw => ?_⟩⟩
  · have hst := strobesOf_begin hvalid (captureFunctionSet rows cs)
    rw [byteStrobes_functionSet] at hst
    exact hst
  · have hmem : Emission.busWrite a w ∈ emissions evs := List.mem_map_of_mem hw
    exact backlightBit_of_mem_emittedBy hvalid hx (by simp [Instr.hostOp]) (m ▸ hmem)

/-! ## The machine of R124 -/

/-- `DONE` is left for idle in Ready exactly when success is returned (R123, R124). -/
theorem seqNext_done (u : State) :
    seqNext .done u = if (seqComplete u).ret = .status true then .readyIdle else .i0 := by
  cases h : u.opFail <;> simp [seqNext, seqComplete, h]

/-- Presented with a legal `begin` and then with nothing, the machine runs the ten steps and decides. -/
theorem seqRun_begin {cols rows : Nat} (hc : colsOk cols = true) (hr : rowsOk rows = true) (cs : CharSize) (s : State) :
    seqRun (some (.begin cols rows cs) :: List.replicate 11 none) (.i0, s) =
      .next (seqNext .done (beginSequence (captureBegin cols rows cs s)),
        seqComplete (beginSequence (captureBegin cols rows cs s))) := by
  rw [seqRun, seqStep_begin hc hr]
  exact seqRun_sequence _

/-- Where the machine is idle, an instruction that does not start the sequence is run whole (log 12). -/
theorem seqStep_eq_seqWhole {i : Instr} {p : SeqState} (h : (p = .i0 ∧ i.hostOp ≠ some .begin) ∨ p = .readyIdle) (s : State) :
    seqStep (some i) (p, s) = seqWhole p i s := by
  rcases h with ⟨rfl, hi⟩ | rfl
  · cases i with
    | begin => exact absurd rfl hi
    | _ => rfl
  · rfl

theorem seqStep_begin_illTyped {cols rows : Nat} (h : cols = 0 ∨ 40 < cols ∨ rows = 0 ∨ 4 < rows) (cs : CharSize) (s : State) :
    seqStep (some (.begin cols rows cs)) (.i0, s) = .refused (.illTyped .illTypedOperands) :=
  if_neg (begin_illTyped h)

/-- Settles O45: the machine's actions are the steps of `begin`, and elsewhere it runs `exec` or stays. -/
theorem handshakeMachineIsBegin : Obligations.HandshakeMachineIsBegin := by
  refine ⟨fun cols rows cs s hc hc' hr hr' hs => ?_, fun s => ⟨seqStep_idle rfl s, seqStep_idle rfl s⟩,
    fun cols rows cs s h => ⟨seqStep_begin_illTyped h cs s, ?_⟩, fun i p s hp => ?_⟩
  · obtain ⟨hcols, hrows⟩ := begin_operandsOk hc hc' hr hr'
    refine ⟨_, exec_begin_uninitialized hcols hrows hs cs, ?_⟩
    rw [seqRun_begin hcols hrows, seqNext_done]
  · rw [seqStep_eq_seqWhole (.inr rfl), seqWhole, exec_begin_illTyped h]
  · rw [seqStep_eq_seqWhole hp, seqWhole]
    exact ⟨fun t h => by rw [h], fun f h => by rw [h], fun r h => by rw [h]⟩

end Sys2Proof.Machine

/-! The family of spec/43_commands.md. A catalogue operation is the `misuse` check, the registers it writes, and what it sends:
`misused_and_runsExactly` reads both halves of its statement off this form, and the operations differ in what they perform. -/

namespace Sys2Proof.Machine

/-! ## A catalogue operation (R182) -/

/-- In Ready an operation whose rest performs `es` from the registers of `base` runs exactly so. -/
theorem runsExactly_of_requireReady {i : Instr} {op : HostOp} {s base u : State} {body : State → Result} {r : Ret}
    {es : List Emission} (hs : s.phase = .ready) (h : exec i s = requireReady op s body)
    (hb : body (clearOpFail s) = returning r u) (hu : ∃ evs, Completes base u evs ∧ emissions evs = es) :
    RunsExactly i s base r es := by
  obtain ⟨evs, hp, m⟩ := hu
  refine ⟨u, evs, ?_, hp, m⟩
  rw [h, requireReady_ready op hs, hb, returning]

/-- An operation that is the `misuse` check and then `body`, which performs `es s` from the registers of `base s`: a fault before
`begin`, and exactly that in Ready. -/
theorem misused_and_runsExactly {i : Instr} {op : HostOp} {body base : State → State} {es : State → List Emission}
    (h : ∀ s, exec i s = requireReady op s fun u => returning .nothing (body u))
    (hb : ∀ s, ∃ evs, Completes (base s) (body (clearOpFail s)) evs ∧ emissions evs = es s) :
    MisusedBeforeBegin i op ∧ ∀ s : State, s.phase = .ready → RunsExactly i s (base s) .nothing (es s) :=
  ⟨misusedBeforeBegin_of_requireReady (body := fun _ u => returning .nothing (body u)) h,
    fun s hs => runsExactly_of_requireReady hs (h s) rfl (hb s)⟩

/-! ## `clear`, `home` and the scrolls (R140, R141, R152, R153) -/

/-- Settles O32: each is a command byte followed by its wait. -/
theorem clearAndHomeWaitTwoMilliseconds : Obligations.ClearAndHomeWaitTwoMilliseconds :=
  ⟨misused_and_runsExactly (base := id) (body := transferClear) (fun _ => rfl)
      fun s => sendWait_performs clearByte T_CLEAR (clearOpFail s),
    misused_and_runsExactly (base := id) (body := transferHome) (fun _ => rfl)
      fun s => sendWait_performs homeByte T_HOME (clearOpFail s)⟩

/-- Settles O33: each is one command byte, `shiftByte` with the display moved. -/
theorem scrollsSendTheShiftCommand : Obligations.ScrollsSendTheShiftCommand :=
  ⟨misused_and_runsExactly (base := id) (body := sendCommand (shiftByte true false)) (fun _ => rfl)
      fun s => send_performs (shiftByte true false) false (clearOpFail s),
    misused_and_runsExactly (base := id) (body := sendCommand (shiftByte true true)) (fun _ => rfl)
      fun s => send_performs (shiftByte true true) false (clearOpFail s)⟩

/-! ## The mode-flag setters (R142 to R151, R156) -/

section
variable {i : Instr} {op : HostOp} {setMask clrMask : Byte}

/-- A display-control setter writes its flag to the shadow, then sends the shadow. -/
theorem displaySetter_runsExactly (h : ∀ s, exec i s = mutateDisplay op setMask clrMask s) :
    MisusedBeforeBegin i op ∧ ∀ s : State, s.phase = .ready →
      RunsExactly i s { s with displayControl := (s.displayControl ||| setMask) &&& ~~~clrMask } .nothing
        (byteEmissions s.config s.backlight false (0x08 ||| ((s.displayControl ||| setMask) &&& ~~~clrMask))) :=
  misused_and_runsExactly h fun s => send_performs _ false (setDisplayFlags setMask clrMask s)

/-- An entry-mode setter writes its flag to the shadow, then sends the shadow. -/
theorem entrySetter_runsExactly (h : ∀ s, exec i s = mutateEntry op setMask clrMask s) :
    MisusedBeforeBegin i op ∧ ∀ s : State, s.phase = .ready →
      RunsExactly i s { s with entryMode := (s.entryMode ||| setMask) &&& ~~~clrMask } .nothing
        (byteEmissions s.config s.backlight false (0x04 ||| ((s.entryMode ||| setMask) &&& ~~~clrMask))) :=
  misused_and_runsExactly h fun s => send_performs _ false (setEntryFlags setMask clrMask s)

end

/-- Settles O34: each of the six is `mutateDisplay` with its own masks. -/
theorem displaySettersUpdateThenSend : Obligations.DisplaySettersUpdateThenSend := by
  intro p hp
  simp only [List.mem_cons, List.not_mem_nil, or_false] at hp
  obtain rfl | rfl | rfl | rfl | rfl | rfl := hp <;> exact displaySetter_runsExactly fun _ => rfl

/-- Settles O35: each of the four is `mutateEntry` with its own masks. -/
theorem entrySettersUpdateThenSend : Obligations.EntrySettersUpdateThenSend := by
  intro p hp
  simp only [List.mem_cons, List.not_mem_nil, or_false] at hp
  obtain rfl | rfl | rfl | rfl := hp <;> exact entrySetter_runsExactly fun _ => rfl

/-! ## Off, then on (R157) -/

/-- In Ready a display-control setter completes and leaves the block Ready, its flag changed in the shadow. -/
theorem displaySetter_completes {i : Instr} {op : HostOp} {setMask clrMask : Byte}
    (h : ∀ s, exec i s = mutateDisplay op setMask clrMask s) {s : State} (hs : s.phase = .ready) :
    ∃ t, exec i s = .next t ∧ t.phase = .ready ∧ t.displayControl = updateFlags s.displayControl setMask clrMask := by
  obtain ⟨t, evs, ht, hp, -⟩ := (displaySetter_runsExactly h).2 s hs
  exact ⟨_, ht, hp.phase.trans hs, hp.displayControl⟩

/-- Clearing flags and then setting them leaves them set and the others as they were. -/
theorem updateFlags_clear_set (v mask : Byte) : updateFlags (updateFlags v 0 mask) mask 0 = v ||| mask := by
  have hset (w : Byte) : updateFlags w mask 0 = w ||| mask := BitVec.and_allOnes
  have hclear : updateFlags v 0 mask = v &&& ~~~mask := congrArg (· &&& ~~~mask) BitVec.or_zero
  rw [hset, hclear]
  ext k
  cases hm : mask[k] <;> simp [hm]

/-- Setting a one-bit flag that is set changes nothing. -/
theorem or_flag_of_set : ∀ mask ∈ [DC_DISPLAY, DC_CURSOR, DC_BLINK], ∀ v : Byte, v &&& mask ≠ 0 → v ||| mask = v := by
  decide

/-- The law of one pair of setters, `off` clearing the flag that `on` sets. -/
theorem offThenOn {off on : Instr} {opOff opOn : HostOp} {mask : Byte} (hmask : mask ∈ [DC_DISPLAY, DC_CURSOR, DC_BLINK])
    (hoff : ∀ s, exec off s = mutateDisplay opOff 0 mask s) (hon : ∀ s, exec on s = mutateDisplay opOn mask 0 s)
    (s : State) (hs : s.phase = .ready) :
    ∃ t u, exec off s = .next t ∧ exec on t = .next u ∧ u.displayControl = s.displayControl ||| mask ∧
      (s.displayControl &&& mask ≠ 0 → u.displayControl = s.displayControl) := by
  obtain ⟨t, ht, hready, hdt⟩ := displaySetter_completes hoff hs
  obtain ⟨u, hu, -, hdu⟩ := displaySetter_completes hon hready
  have hd : u.displayControl = s.displayControl ||| mask := by rw [hdu, hdt, updateFlags_clear_set]
  exact ⟨t, u, ht, hu, hd, fun hset => hd.trans (or_flag_of_set mask hmask _ hset)⟩

/-- Settles O37: the law of each pair. -/
theorem offThenOnRestoresTheFlag : Obligations.OffThenOnRestoresTheFlag := by
  intro p hp
  simp only [List.mem_cons, List.not_mem_nil, or_false] at hp
  obtain rfl | rfl | rfl := hp <;> exact offThenOn (by decide) (fun _ => rfl) (fun _ => rfl)

/-! ## `setCursor` (R154) -/

/-- The four rows of `ROWBASE` (R52). -/
theorem rowBase_eq_getD {row : Nat} (h : row ≤ 3) : rowBase row = [0x00, 0x40, 0x14, 0x54].getD row 0 := by
  interval_cases row <;> rfl

theorem clampRow_lt {rows : Nat} (h : 1 ≤ rows) (row : Nat) : clampRow rows row < rows := by
  rcases Nat.lt_or_ge row rows with hlt | hge
  · rwa [clampRow_of_lt hlt]
  · rw [clampRow_of_le hge]; omega

theorem clampRow_eq (rows row : Nat) : clampRow rows row = if row ≥ rows then rows - 1 else row := by
  simp [clampRow, rowOutOfRange]

/-- The byte of R154 as the statement writes it. -/
theorem ddramByte_ddramAddress {rows : Nat} (h1 : 1 ≤ rows) (h4 : rows ≤ 4) (col row : Byte) :
    ddramByte (ddramAddress rows col row) =
      0x80 ||| BitVec.ofNat 8 ((col.toNat + [0x00, 0x40, 0x14, 0x54].getD
        (if row.toNat ≥ rows then rows - 1 else row.toNat) 0) % 128) := by
  have hrow : clampRow rows row.toNat ≤ 3 := by have := clampRow_lt h1 row.toNat; omega
  rw [ddramByte, ← clampRow_eq, ← rowBase_eq_getD hrow, ← ddramAddress_toNat, BitVec.ofNat_toNat]

/-- Settles O38: one command byte, whose address is the clamped row's base and the column modulo 128. -/
theorem setCursorAddressesTheCell : Obligations.SetCursorAddressesTheCell := by
  intro col row
  obtain ⟨hmisuse, hrun⟩ := misused_and_runsExactly (i := .setCursor col row) (base := id)
    (body := fun u => sendCommand (ddramByte (ddramAddress u.rows col row)) u) (fun _ => rfl)
    fun s => send_performs (ddramByte (ddramAddress s.rows col row)) false (clearOpFail s)
  refine ⟨hmisuse, fun s hs h1 h4 => ?_⟩
  rw [← ddramByte_ddramAddress h1 h4]
  exact hrun s hs

/-! ## `createChar` (R155, R184) -/

/-- A command byte and then data bytes, all of them whatever the answers. -/
theorem sendCommandData_performs (b : Byte) (bytes : List Byte) (s : State) :
    ∃ evs, Performs s (sendAll bytes (sendCommand b s)) evs ∧
      emissions evs = byteEmissions s.config s.backlight false b ++ bytes.flatMap (byteEmissions s.config s.backlight true) := by
  obtain ⟨a, ha, ma⟩ := send_performs b false s
  obtain ⟨d, hd, md⟩ := sendAll_performs bytes (sendCommand b s)
  have hconfig : (sendCommand b s).config = s.config := ha.config
  have hbl : (sendCommand b s).backlight = s.backlight := ha.backlight
  exact ⟨a ++ d, ha.trans hd, by rw [emissions_append, ma, md, hconfig, hbl]⟩

/-- The byte of R155 as the statement writes it: the address has six bits, so none reaches the base. -/
theorem cgramByte_cgramAddress (slot : Byte) : cgramByte (cgramAddress slot) = 0x40 ||| ((slot &&& 0x07) <<< 3) := by
  revert slot; decide

theorem glyphOk_iff (glyph : List Byte) : glyphOk glyph = true ↔ glyph.length = 8 := beq_iff_eq

theorem exec_createChar {glyph : List Byte} (h : glyph.length = 8) (slot : Byte) (s : State) :
    exec (.createChar slot glyph) s = requireReady .createChar s fun u =>
      returning .nothing (sendAll glyph (sendCommand (cgramByte (cgramAddress slot)) u)) :=
  if_pos ((glyphOk_iff glyph).2 h)

theorem exec_createChar_illTyped {glyph : List Byte} (h : glyph.length ≠ 8) (slot : Byte) (s : State) :
    exec (.createChar slot glyph) s = .refused (.illTyped .illTypedOperands) :=
  if_neg (mt (glyphOk_iff glyph).1 h)

/-- Settles O40: the address command and the rows, after the operand and phase checks. -/
theorem createCharSendsNineBytes : Obligations.CreateCharSendsNineBytes := by
  refine fun slot glyph => ⟨fun h => misused_and_runsExactly (base := id) (exec_createChar h slot) fun s => ?_,
    fun h s => exec_createChar_illTyped h slot s⟩
  rw [← cgramByte_cgramAddress]
  exact sendCommandData_performs _ glyph (clearOpFail s)

end Sys2Proof.Machine

/-! The family of spec/44_facade.md. `setBacklight` is the transport's flush, its failure noted; `write` and `writeString` are the
`misuse` check and their data bytes. `getCharAt` is one command byte and two reads: only the reads have read answers, so the byte
returned is read off them. -/

namespace Sys2Proof.Machine

/-! ## `setBacklight` (R96, R97, R173) -/

/-- The word of the flush has no bit but the backlight's (R96). -/
theorem portByte_backlight (x : ExpanderCfg) (bl : Bool) :
    x.portByte 0 false false false bl = if bl then 1#8 <<< x.pBl.val else 0 := by
  simp [ExpanderCfg.portByte, ExpanderCfg.dataBits, bitIf, lineMask]

/-- In both phases `setBacklight` writes its bit, then flushes the level of the line. -/
theorem setBacklight_runsExactly (on : Bool) (s : State) :
    RunsExactly (.setBacklight on) s { s with backlight := on } .nothing (backlightEmissions s.config on) := by
  obtain ⟨evs, hf, he, hm⟩ := transportSetBacklight_emits on (clearOpFail s)
  refine ⟨_, evs, rfl, ?_, hm⟩
  rw [hf]
  exact he.noted

/-- Settles O27: the flush is `backlightEmissions`, in either variant. -/
theorem setBacklightFlushesTheLevel : Obligations.SetBacklightFlushesTheLevel := by
  intro on s
  have hrun := setBacklight_runsExactly on s
  rw [backlightEmissions, blLevel_eq_xor] at hrun
  refine ⟨fun x hx => ?_, fun g hg => ?_⟩
  · simpa only [hx, portByte_backlight] using hrun
  · simpa only [hg] using hrun

/-! ## `write` and `writeString` (R170, R171) -/

theorem exec_write (b : Byte) (s : State) : exec (.write b) s = writeOne .write b s := rfl

/-- Settles O30: in Ready the name an operation would report plays no part. -/
theorem writeIsWriteData : Obligations.WriteIsWriteData := by
  refine fun b => ⟨misusedBeforeBegin_of_requireReady (exec_write b), fun s hs => ?_⟩
  obtain ⟨evs, h, -⟩ := send_performs b true (clearOpFail s)
  have hwrite : exec (.write b) s = _ := writeOne_ready hs h
  have hwriteData : exec (.writeData b) s = _ := writeOne_ready hs h
  exact ⟨hwrite.trans hwriteData.symm, _, hwrite⟩

theorem exec_writeString (bytes : List Byte) (s : State) :
    exec (.writeString bytes) s = requireReady .writeString s fun u =>
      returning (.accepted (sendString bytes 0 u).1) (sendString bytes 0 u).2 := rfl

/-- Settles O31: in Ready `writeString` is `sendString`, which counts from 0. -/
theorem writeStringCountsAcceptedBytes : Obligations.WriteStringCountsAcceptedBytes := by
  refine fun bytes => ⟨misusedBeforeBegin_of_requireReady (exec_writeString bytes), fun s hs => ?_⟩
  obtain ⟨chunks, hcount, hp, hm⟩ := sendString_performs bytes 0 (clearOpFail s)
  refine ⟨_, chunks, ?_, hp, hm⟩
  rw [exec_writeString, requireReady_ready _ hs, hcount, Nat.zero_add, returning]

/-! ## `getCharAt` (R99, R100, R174) -/

theorem canRead_iff {c : Config} : c.canRead = true ↔ ∃ x, c.transport = .expander x ∧ c.readSupported = true := by
  unfold Config.canRead
  cases c.transport <;> simp

theorem exec_getCharAt {s : State} {x : ExpanderCfg} (hx : s.config.transport = .expander x)
    (hr : s.config.readSupported = true) (col row : Byte) :
    exec (.getCharAt col row) s = requireReady .getCharAt s (readCharAt x col row) := by
  simp only [exec, execGetCharAt, hx, hr, if_true]

theorem exec_getCharAt_unsupported {s : State} (h : s.config.canRead = false) (col row : Byte) :
    exec (.getCharAt col row) s = .refused .readUnsupported := by
  cases ht : s.config.transport with
  | gpio g => simp only [exec, execGetCharAt, ht]
  | expander x =>
    have hr : s.config.readSupported = false := by simpa only [Config.canRead, ht] using h
    simp [exec, execGetCharAt, ht, hr]

/-- Events whose emissions hold no bus read carry no read answer (R56). -/
theorem readAnswersOf_eq_nil {evs : List Event} (h : ∀ a, Emission.busRead a ∉ emissions evs) : readAnswersOf evs = [] := by
  refine List.filterMap_eq_nil_iff.2 fun e he => ?_
  cases e with
  | busRead a answer => exact absurd (List.mem_map_of_mem he) (h a)
  | _ => rfl

/-- A byte is only written (R110). -/
theorem busRead_notMem_byteEmissions (c : Config) (backlight rs : Bool) (b : Byte) (a : BitVec 7) :
    .busRead a ∉ byteEmissions c backlight rs b := by
  unfold byteEmissions nibbleEmissions
  cases c.transport <;> simp

/-- Of two nibbles the first is the high one (R174). -/
theorem joinNibbles_eq_append (hi lo : Nibble) : joinNibbles hi lo = hi ++ lo := by
  revert hi lo; decide

/-- The two reads of `getCharAt`, their failure noted: where nothing failed, the nibbles are those of the two bytes read. -/
theorem twoReads_performs {x : ExpanderCfg} {s : State} {hi lo : ReadResult} (hhi : hi = read4bits x true s)
    (hlo : lo = read4bits x true hi.state) :
    ∃ evs, Performs s (noteFailure (hi.failed || lo.failed) lo.state) evs ∧
      emissions evs = readEmissions x s.blLevel true ++ readEmissions x s.blLevel true ∧
      (anyFailed evs = false → ∃ b1 b2, readAnswersOf evs = [some b1, some b2] ∧
        joinNibbles hi.nibble lo.nibble = x.nibbleAt b1 ++ x.nibbleAt b2) := by
  obtain ⟨a, fa, ea, ma, na⟩ := read4bits_emits x true s
  rw [← hhi] at fa ea na
  obtain ⟨b, fb, eb, mb, nb⟩ := read4bits_emits x true hi.state
  rw [← hlo] at fb eb nb
  have hlevel : hi.state.blLevel = s.blLevel := by rw [State.blLevel, ea.config, ea.backlight]; rfl
  refine ⟨a ++ b, ?_, by rw [emissions_append, ma, mb, hlevel], fun hok => ?_⟩
  · rw [fa, fb, ← anyFailed_append]
    exact (ea.trans eb).noted
  · rw [anyFailed_append, Bool.or_eq_false_iff] at hok
    obtain ⟨b1, h1, n1⟩ := na hok.1
    obtain ⟨b2, h2, n2⟩ := nb hok.2
    exact ⟨b1, b2, by rw [readAnswersOf_append, h1, h2]; rfl, by rw [joinNibbles_eq_append, n1, n2]⟩

/-- What `getCharAt` does in Ready on an instance that can read: the address command, the two reads, and the value returned. -/
theorem readCharAt_completes (x : ExpanderCfg) (col row : Byte) (s : State) :
    ∃ t evs r, readCharAt x col row (clearOpFail s) = .next { t with ret := r } ∧ Completes s t evs ∧
      emissions evs = byteEmissions s.config s.backlight false (ddramByte (ddramAddress s.rows col row))
        ++ readEmissions x s.blLevel true ++ readEmissions x s.blLevel true ∧
      (anyFailed evs = true → ∃ byte, r = .char false byte) ∧
      (anyFailed evs = false → ∃ b1 b2, readAnswersOf evs = [some b1, some b2] ∧
        r = .char true (x.nibbleAt b1 ++ x.nibbleAt b2)) := by
  obtain ⟨a, ha, ma⟩ := send_performs (ddramByte (ddramAddress s.rows col row)) false (clearOpFail s)
  obtain ⟨b, hb, mb, hbyte⟩ := twoReads_performs (x := x) (s := send _ false (clearOpFail s)) rfl rfl
  have hp := ha.trans hb
  have hreads : readAnswersOf a = [] := readAnswersOf_eq_nil (ma ▸ busRead_notMem_byteEmissions _ _ _ _)
  have hdone := hp.trans (drawByte_performs _)
  rw [List.append_nil] at hdone
  refine ⟨_, a ++ b, _, rfl, hdone, ?_, fun hfail => ⟨_, if_pos (hp.opFail.trans hfail)⟩, fun hok => ?_⟩
  · rw [emissions_append, ma, mb, State.blLevel, ha.config, ha.backlight, List.append_assoc]
    rfl
  · obtain ⟨b1, b2, hanswers, hjoin⟩ := hbyte (Bool.or_eq_false_iff.1 (anyFailed_append a b ▸ hok)).2
    refine ⟨b1, b2, by rw [readAnswersOf_append, hreads, hanswers, List.nil_append], ?_⟩
    rw [← hjoin]
    exact if_neg (ne_true_of_eq_false (hp.opFail.trans hok))

/-- Settles O41: the refusal and the `misuse` check come first (R186), and the byte of the address is that of `setCursor`. -/
theorem getCharAtReadsTwoNibbles : Obligations.GetCharAtReadsTwoNibbles := by
  refine fun col row => ⟨fun s h => exec_getCharAt_unsupported h col row, fun s h hs => ?_, fun s x hx hr hs h1 h4 => ?_⟩
  · obtain ⟨x, hx, hr⟩ := canRead_iff.1 h
    rw [exec_getCharAt hx hr, requireReady_uninitialized _ hs]
  · rw [exec_getCharAt hx hr, requireReady_ready _ hs, ← ddramByte_ddramAddress h1 h4]
    exact readCharAt_completes x col row s

end Sys2Proof.Machine

/-! The family of spec/60_exceptions.md. `exec` has three outcomes: a legal instruction completes (`exec_completes_iff`), one not
well-typed or not the instance's is refused (`exec_refused`), and the rest are `misuse` (`exec_misuse`). These cases exclude each
other, so where an instruction stops is read off them; what it records and returns is read off `exec_runs`. -/

namespace Sys2Proof.Machine

/-! ## Where an instruction stops (R182, R184) -/

/-- An instruction that is not well-typed, or that the instance does not have, is refused in either phase. -/
theorem exec_refused {i : Instr} {s : State} (h : ¬(i.wellFormed = true ∧ i.existsOn s.config = true)) :
    ∃ r, exec i s = .refused r := by
  cases i with
  | begin cols rows cs =>
    have hoperands : ¬(colsOk cols && rowsOk rows) = true := fun hw => h ⟨hw, rfl⟩
    exact ⟨_, if_neg hoperands⟩
  | createChar slot glyph =>
    have hglyph : ¬glyphOk glyph = true := fun hw => h ⟨hw, rfl⟩
    exact ⟨_, if_neg hglyph⟩
  | getCharAt col row =>
    have hread : ¬s.config.canRead = true := fun he => h ⟨rfl, he⟩
    exact ⟨_, exec_getCharAt_unsupported (Bool.eq_false_iff.2 hread) col row⟩
  | portWord n e rw rs =>
    have hport : ¬s.config.hasPort = true := fun he => h ⟨rfl, he⟩
    cases ht : s.config.transport with
    | expander x => simp [Config.hasPort, ht] at hport
    | gpio g => exact ⟨.noPort, by simp only [exec, execPortWord, ht]⟩
  | _ => exact absurd ⟨rfl, rfl⟩ h

section
variable {s : State} (hs : s.phase = .uninitialized)
include hs

theorem writeOne_misuse (op : HostOp) (b : Byte) : writeOne op b s = .fault (.misuse op) :=
  requireReady_uninitialized op hs _

theorem mutateDisplay_misuse (op : HostOp) (setMask clrMask : Byte) :
    mutateDisplay op setMask clrMask s = .fault (.misuse op) :=
  requireReady_uninitialized op hs _

theorem mutateEntry_misuse (op : HostOp) (setMask clrMask : Byte) :
    mutateEntry op setMask clrMask s = .fault (.misuse op) :=
  requireReady_uninitialized op hs _

end

/-- Before `begin` has succeeded an operation that needs Ready is the fault, once its operands and the instance allow it
(R182, R186). -/
theorem exec_misuse {i : Instr} {op : HostOp} {s : State} (hop : i.hostOp = some op) (hn : op.needsReady = true)
    (hw : i.wellFormed = true) (he : i.existsOn s.config = true) (hs : s.phase = .uninitialized) :
    exec i s = .fault (.misuse op) := by
  cases i with
  | clearDisplay | returnHome | entryModeSet | displayControl | cursorDisplayShift | functionSet | setCgramAddress
  | setDdramAddress | dataByte | wake | to4bit | portWord => cases hop
  | begin | setBacklight => cases hop; exact absurd hn (by decide)
  | createChar slot glyph =>
    cases hop
    rw [exec_createChar ((glyphOk_iff glyph).1 hw), requireReady_uninitialized _ hs]
  | getCharAt col row =>
    cases hop
    obtain ⟨x, hx, hr⟩ := canRead_iff.1 he
    rw [exec_getCharAt hx hr, requireReady_uninitialized _ hs]
  | writeData | write => cases hop; exact writeOne_misuse hs _ _
  | display | noDisplay | cursor | noCursor | blink | noBlink => cases hop; exact mutateDisplay_misuse hs _ _ _
  | leftToRight | rightToLeft | autoscroll | noAutoscroll => cases hop; exact mutateEntry_misuse hs _ _ _
  | command | clear | home | scrollDisplayLeft | scrollDisplayRight | setCursor | writeString =>
    cases hop
    dsimp only [exec]
    exact requireReady_uninitialized _ hs _

/-- An instruction that is neither legal nor refused is an operation that needs Ready, before `begin` has succeeded. -/
theorem legal_or_misused {i : Instr} {s : State} (hw : i.wellFormed = true) (he : i.existsOn s.config = true) :
    Legal i s ∨ s.phase = .uninitialized ∧ ∃ op, i.hostOp = some op ∧ op.needsReady = true := by
  cases hs : s.phase with
  | ready => exact .inl ⟨hw, he, .inl hs⟩
  | uninitialized =>
    by_cases hn : ∃ op, i.hostOp = some op ∧ op.needsReady = true
    · exact .inr ⟨rfl, hn⟩
    · refine .inl ⟨hw, he, .inr fun op hop => ?_⟩
      exact Bool.eq_false_iff.2 fun hready => hn ⟨op, hop, hready⟩

theorem exec_refused_iff (i : Instr) (s : State) :
    (∃ r, exec i s = .refused r) ↔ ¬(i.wellFormed = true ∧ i.existsOn s.config = true) := by
  refine ⟨fun ⟨r, h⟩ ⟨hw, he⟩ => ?_, exec_refused⟩
  rcases legal_or_misused hw he with hl | ⟨hs, op, hop, hn⟩
  · obtain ⟨t, ht⟩ := (exec_completes_iff i s).2 hl
    rw [ht] at h; cases h
  · rw [exec_misuse hop hn hw he hs] at h; cases h

theorem exec_fault_iff {i : Instr} {s : State} {f : Fault} :
    exec i s = .fault f ↔ i.wellFormed = true ∧ i.existsOn s.config = true ∧ s.phase = .uninitialized ∧
      ∃ op, i.hostOp = some op ∧ op.needsReady = true ∧ f = .misuse op := by
  refine ⟨fun h => ?_, fun ⟨hw, he, hs, op, hop, hn, hf⟩ => hf ▸ exec_misuse hop hn hw he hs⟩
  have hlegal : i.wellFormed = true ∧ i.existsOn s.config = true := by
    by_contra hill
    obtain ⟨r, hr⟩ := exec_refused hill
    rw [hr] at h; cases h
  obtain ⟨hw, he⟩ := hlegal
  rcases legal_or_misused hw he with hl | ⟨hs, op, hop, hn⟩
  · obtain ⟨t, ht⟩ := (exec_completes_iff i s).2 hl
    rw [ht] at h; cases h
  · rw [exec_misuse hop hn hw he hs] at h
    cases h
    exact ⟨hw, he, hs, op, hop, hn, rfl⟩

/-- Settles O16: the one fault of `exec` is `misuse`. -/
theorem misuseIsExactlyBeforeBegin : Obligations.MisuseIsExactlyBeforeBegin := by
  refine ⟨fun i op s hop hn hw he hs => exec_misuse hop hn hw he hs, fun i s f h => ?_⟩
  obtain ⟨-, -, hs, hop⟩ := exec_fault_iff.1 h
  exact ⟨hs, hop⟩

/-- Settles O17: a legal instruction completes and a misused one faults, so only the ill-typed and the missing are refused. -/
theorem refusedExactlyWhenIllTyped : Obligations.RefusedExactlyWhenIllTyped := exec_refused_iff

/-- Settles O18: a legal instruction completes, and what it leaves unchanged is read off `Runs`. -/
theorem everyLegalInstructionCompletes : Obligations.EveryLegalInstructionCompletes := by
  intro i s hw he hp
  obtain ⟨t, ht⟩ := (exec_completes_iff i s).2 ⟨hw, he, hp⟩
  obtain ⟨evs, hr⟩ := exec_runs ht
  exact ⟨t, evs, ht, hr.trace, hr.config, hr.requests⟩

/-! ## A setter called again (R188, R16) -/

/-- Setting and clearing the same flags a second time changes nothing. -/
theorem updateFlags_idem (v setMask clrMask : Byte) :
    updateFlags (updateFlags v setMask clrMask) setMask clrMask = updateFlags v setMask clrMask := by
  unfold updateFlags
  ext k
  cases hm : setMask[k] <;> simp [hm]

@[simp] theorem setDisplayFlags_displayControl (setMask clrMask : Byte) (s : State) :
    (setDisplayFlags setMask clrMask s).displayControl = updateFlags s.displayControl setMask clrMask := rfl

@[simp] theorem setEntryFlags_entryMode (setMask clrMask : Byte) (s : State) :
    (setEntryFlags setMask clrMask s).entryMode = updateFlags s.entryMode setMask clrMask := rfl

/-- The instruction that led from `s` to `t` completes again from `t`, with the same emissions, and leaves the two shadows as they
are in `t`. -/
def RepeatsItself (i : Instr) (s t : State) : Prop :=
  ∃ u evs evs', exec i t = .next u ∧ t.trace = s.trace ++ evs ∧ u.trace = t.trace ++ evs' ∧
    emissions evs' = emissions evs ∧ u.displayControl = t.displayControl ∧ u.entryMode = t.entryMode

section
variable {i : Instr} {s t : State} (h : exec i s = .next t) (hb : i.hostOp ≠ some .begin)
include h hb

/-- What an instruction other than `begin` needs to complete it leaves as it was. -/
theorem exec_completes_again : ∃ u, exec i t = .next u := by
  obtain ⟨evs, hr⟩ := exec_runs h
  have hlegal := (exec_completes_iff i s).1 ⟨t, h⟩
  rw [exec_completes_iff, Legal, hr.config, hr.phase hb]
  exact hlegal

/-- An instruction that sends one byte read off the shadows it writes, run again where these are as it writes them, sends it
again. -/
theorem RepeatsItself.of_shadows {byte : Byte → Byte → Byte}
    (he : ∀ s, emittedBy i s = commandEmissions s (byte (writtenBy i s).displayControl (writtenBy i s).entryMode))
    (hbl : (writtenBy i s).backlight = s.backlight) (hd : (writtenBy i t).displayControl = t.displayControl)
    (hm : (writtenBy i t).entryMode = t.entryMode) : RepeatsItself i s t := by
  obtain ⟨evs, hr⟩ := exec_runs h
  obtain ⟨u, hu⟩ := exec_completes_again h hb
  obtain ⟨evs', hr'⟩ := exec_runs hu
  refine ⟨u, evs, evs', hu, hr.trace, hr'.trace, ?_, hr'.displayControl.trans hd, hr'.entryMode.trans hm⟩
  rw [hr'.emitted, hr.emitted, he, he, hd, hm, hr.displayControl, hr.entryMode, commandEmissions, commandEmissions, hr.config,
    hr.backlight, hbl]

variable {setMask clrMask : Byte}

theorem displaySetter_repeatsItself (hw : ∀ s, writtenBy i s = setDisplayFlags setMask clrMask s)
    (he : ∀ s, emittedBy i s = commandEmissions s (displayControlByte (writtenBy i s).displayControl)) :
    RepeatsItself i s t := by
  obtain ⟨evs, hr⟩ := exec_runs h
  have hd : t.displayControl = updateFlags s.displayControl setMask clrMask := by
    rw [hr.displayControl, hw, setDisplayFlags_displayControl]
  refine .of_shadows h hb (byte := fun d _ => displayControlByte d) he (by rw [hw]; rfl) ?_ (by rw [hw]; rfl)
  rw [hw, setDisplayFlags_displayControl, hd, updateFlags_idem]

theorem entrySetter_repeatsItself (hw : ∀ s, writtenBy i s = setEntryFlags setMask clrMask s)
    (he : ∀ s, emittedBy i s = commandEmissions s (entryModeByte (writtenBy i s).entryMode)) :
    RepeatsItself i s t := by
  obtain ⟨evs, hr⟩ := exec_runs h
  have hm : t.entryMode = updateFlags s.entryMode setMask clrMask := by rw [hr.entryMode, hw, setEntryFlags_entryMode]
  refine .of_shadows h hb (byte := fun _ m => entryModeByte m) he (by rw [hw]; rfl) (by rw [hw]; rfl) ?_
  rw [hw, setEntryFlags_entryMode, hm, updateFlags_idem]

end

/-- Settles O36: the first call leaves in the shadow what the second writes to it and sends. -/
theorem repeatedSetterReconverges : Obligations.RepeatedSetterReconverges := by
  intro i hi s t h
  simp only [List.mem_cons, List.not_mem_nil, or_false] at hi
  obtain rfl | rfl | rfl | rfl | rfl | rfl | hentry := hi
  iterate 6 exact displaySetter_repeatsItself h (by decide) (fun _ => rfl) fun _ => rfl
  obtain rfl | rfl | rfl | rfl := hentry
  iterate 4 exact entrySetter_repeatsItself h (by decide) (fun _ => rfl) fun _ => rfl

/-! ## What an operation that completes records (R180, R181) -/

/-- A host operation that completes leaves in `opFail` whether its own events failed (R18, D30); `begin` in Ready has none. -/
theorem Runs.opFail_host {i : Instr} {s t : State} {evs : List Event} (h : Runs i s t evs) (hi : i.hostOp ≠ none)
    (hb : ¬(i.hostOp = some .begin ∧ s.phase = .ready)) : t.opFail = anyFailed evs := by
  rw [h.opFail, writtenBy_opFail_host s hi hb, Bool.false_or]

/-- The events of a run are what it appended to the trace, so an instruction raises a transport failure by these alone. -/
theorem raises_transportFailure_iff {i : Instr} {s t : State} {evs : List Event} (h : exec i s = .next t)
    (htrace : t.trace = s.trace ++ evs) : Raises i s .transportFailure ↔ anyFailed evs = true := by
  refine ⟨fun ⟨t', evs', h', htrace', hf⟩ => ?_, fun hf => ⟨t, evs, h, htrace, hf⟩⟩
  rw [h] at h'
  cases h'
  rwa [List.append_cancel_left (htrace.symm.trans htrace')]

theorem raises_misuse_iff {i : Instr} {op : HostOp} {s : State} (hop : i.hostOp = some op) :
    Raises i s .misuse ↔
      op.needsReady = true ∧ i.wellFormed = true ∧ i.existsOn s.config = true ∧ s.phase = .uninitialized := by
  constructor
  · rintro ⟨f, hf, -⟩
    obtain ⟨hw, he, hs, op', hop', hn, -⟩ := exec_fault_iff.1 hf
    cases hop.symm.trans hop'
    exact ⟨hn, hw, he, hs⟩
  · rintro ⟨hn, hw, he, hs⟩
    exact ⟨.misuse op, exec_misuse hop hn hw he hs, rfl⟩

/-- A failure among the events of a host operation is on an Expander, and both flags show it afterwards. -/
theorem Runs.failure_recorded {i : Instr} {s t : State} {evs : List Event} (h : Runs i s t evs)
    (hf : anyFailed evs = true) : s.config.hasPort = true ∧ t.opFail = true ∧ t.faultSeen = true := by
  refine ⟨?_, by rw [h.opFail, hf, Bool.or_true], by rw [h.faultSeen, hf, Bool.or_true]⟩
  by_contra hp
  rw [h.anyFailed_gpio (Bool.eq_false_iff.2 hp)] at hf
  cases hf

/-! ## What an operation that completes returns (R79, R180) -/

/-- An operation that passed its check is its rest, run with `opFail` clear. -/
theorem body_of_requireReady {op : HostOp} {s t : State} {body : State → Result} (h : requireReady op s body = .next t) :
    body (clearOpFail s) = .next t :=
  (requireReady_ready op (phase_ready_of_requireReady h) body).symm.trans h

theorem execBegin_uninitialized_ret {cols rows : Nat} {cs : CharSize} {s t : State} (hs : s.phase = .uninitialized)
    (h : execBegin cols rows cs s = .next t) : t.ret = .status (!t.opFail) := by
  rw [execBegin_uninitialized hs h]
  rfl

theorem writeOne_ret {op : HostOp} {b : Byte} {s t : State} (h : writeOne op b s = .next t) :
    t.ret = .accepted (if t.opFail then 0 else 1) := by
  cases body_of_requireReady h
  rfl

theorem mutateDisplay_ret {op : HostOp} {setMask clrMask : Byte} {s t : State}
    (h : mutateDisplay op setMask clrMask s = .next t) : t.ret = .nothing := by
  cases body_of_requireReady h
  rfl

theorem mutateEntry_ret {op : HostOp} {setMask clrMask : Byte} {s t : State}
    (h : mutateEntry op setMask clrMask s = .next t) : t.ret = .nothing := by
  cases body_of_requireReady h
  rfl

theorem readResult_ret {hi lo : Nibble} {u t : State} (h : readResult hi lo u = .next t) :
    ∃ b, t.ret = .char (!t.opFail) b := by
  cases h
  change ∃ b, (if u.opFail then Ret.char false _ else .char true _) = .char (!u.opFail) b
  cases u.opFail
  · exact ⟨_, rfl⟩
  · exact ⟨_, rfl⟩

theorem execGetCharAt_ret {col row : Byte} {s t : State} (h : execGetCharAt col row s = .next t) :
    ∃ b, t.ret = .char (!t.opFail) b := by
  obtain ⟨hcan, -⟩ := (execGetCharAt_completes_iff col row s).1 ⟨t, h⟩
  obtain ⟨x, hx, hr⟩ := canRead_iff.1 hcan
  have hbody : readCharAt x col row (clearOpFail s) = .next t :=
    body_of_requireReady ((exec_getCharAt hx hr col row).symm.trans h)
  exact readResult_ret hbody

/-- Chunks joined hold a failure exactly when not all of them are without one. -/
theorem anyFailed_flatten_iff (chunks : List (List Event)) :
    anyFailed chunks.flatten = true ↔ chunks.countP (fun evs => !anyFailed evs) < chunks.length := by
  induction chunks with
  | nil => simp
  | cons evs chunks ih =>
    have hle : chunks.countP (fun evs => !anyFailed evs) ≤ chunks.length := List.countP_le_length
    cases hf : anyFailed evs
    · simp [hf, ih]
    · simp [hf]; omega

/-- `writeString` counts the bytes that did not fail, so short of its string exactly when one did (R171). -/
theorem execWriteString_ret {bytes : List Byte} {s t : State} (h : execWriteString bytes s = .next t) :
    ∃ n, t.ret = .accepted n ∧ n ≤ bytes.length ∧ (t.opFail = true ↔ n < bytes.length) := by
  obtain ⟨chunks, hcount, hp, hm⟩ := sendString_performs bytes 0 (clearOpFail s)
  have hlength : chunks.length = bytes.length := by simpa using congrArg List.length hm
  cases body_of_requireReady h
  refine ⟨_, rfl, ?_, ?_⟩
  · rw [hcount, Nat.zero_add, ← hlength]; exact List.countP_le_length
  · rw [hcount, Nat.zero_add, ← hlength, ← anyFailed_flatten_iff]
    exact iff_of_eq (congrArg (· = true) hp.opFail)

theorem exec_ret_write {i : Instr} {op : HostOp} {s t : State} (hop : i.hostOp = some op)
    (hwrite : op = .writeData ∨ op = .write) (h : exec i s = .next t) : t.ret = .accepted (if t.opFail then 0 else 1) := by
  rcases hwrite with rfl | rfl
  · cases i with
    | writeData b => exact writeOne_ret h
    | _ => cases hop
  · cases i with
    | write b => exact writeOne_ret h
    | _ => cases hop

theorem exec_ret_getCharAt {i : Instr} {s t : State} (hop : i.hostOp = some .getCharAt) (h : exec i s = .next t) :
    ∃ b, t.ret = .char (!t.opFail) b := by
  cases i with
  | getCharAt col row => exact execGetCharAt_ret h
  | _ => cases hop

/-- Every other operation returns nothing. -/
theorem exec_ret_nothing {i : Instr} {op : HostOp} {s t : State} (hop : i.hostOp = some op)
    (hret : op ∉ [HostOp.begin, .writeData, .write, .writeString, .getCharAt]) (h : exec i s = .next t) :
    t.ret = .nothing := by
  cases i with
  | clearDisplay | returnHome | entryModeSet | displayControl | cursorDisplayShift | functionSet | setCgramAddress
  | setDdramAddress | dataByte | wake | to4bit | portWord => cases hop
  | begin | writeData | write | writeString | getCharAt => cases hop; exact absurd (by decide) hret
  | setBacklight => cases h; rfl
  | createChar slot glyph =>
    rw [exec_createChar ((glyphOk_iff glyph).1 (wellFormed_of_exec h))] at h
    cases body_of_requireReady h
    rfl
  | display | noDisplay | cursor | noCursor | blink | noBlink => exact mutateDisplay_ret h
  | leftToRight | rightToLeft | autoscroll | noAutoscroll => exact mutateEntry_ret h
  | command | clear | home | scrollDisplayLeft | scrollDisplayRight | setCursor =>
    dsimp only [exec] at h
    cases body_of_requireReady h
    rfl

/-- Settles O56: the flags by `Runs`, and each returned value by `opFail`, which is the failure of the operation's own events. -/
theorem errorKindsSurfaceAsTabled : Obligations.ErrorKindsSurfaceAsTabled := by
  refine fun i op s hop => ⟨raises_misuse_iff hop, fun t h => ?_⟩
  obtain ⟨evs, hr⟩ := exec_runs h
  have hfail (hb : ¬(op = .begin ∧ s.phase = .ready)) : t.opFail = anyFailed evs :=
    hr.opFail_host (by simp [hop]) (by simpa [hop] using hb)
  refine ⟨evs, hr.trace, raises_transportFailure_iff h hr.trace, hr.failure_recorded, ?_, ?_, ?_, ?_, ?_,
    fun hret => exec_ret_nothing hop hret h⟩
  · rintro rfl hs
    obtain ⟨cols, rows, cs, rfl⟩ := eq_begin_of_hostOp hop
    rw [execBegin_uninitialized_ret hs h, hfail (by simp [hs])]
  · rintro rfl hs
    obtain ⟨cols, rows, cs, rfl⟩ := eq_begin_of_hostOp hop
    have hevs : emissions evs = [] := hr.emitted.trans (emittedBy_begin_ready hs cols rows cs)
    exact ⟨by rw [execBegin_ready hs h], List.map_eq_nil_iff.1 hevs⟩
  · intro hwrite
    rw [← hfail (by rintro ⟨rfl, -⟩; simp at hwrite)]
    exact exec_ret_write hop hwrite h
  · rintro bytes rfl
    cases hop
    rw [← hfail (by simp)]
    exact execWriteString_ret h
  · rintro rfl
    rw [← hfail (by simp)]
    exact exec_ret_getCharAt hop h

/-! ## `outOfRange` (R183) -/

/-- A legal instruction completes, so that it raises `outOfRange` says only that its row or slot is. -/
theorem raises_outOfRange_iff {i : Instr} {s : State} (hl : Legal i s) :
    Raises i s .outOfRange ↔ i.outOfRange s.rows = true :=
  and_iff_right ((exec_completes_iff i s).2 hl)

theorem rowOutOfRange_iff {rows row : Nat} : rowOutOfRange rows row = true ↔ rows ≤ row := decide_eq_true_iff

theorem slotOutOfRange_iff {slot : Byte} : slotOutOfRange slot = true ↔ 8 ≤ slot.toNat := decide_eq_true_iff

/-- Only the rows of `setCursor` and `getCharAt` and the slot of `createChar` have a range. -/
theorem operand_of_outOfRange {i : Instr} {rows : Nat} (h : i.outOfRange rows = true) :
    (∃ col row, (i = .setCursor col row ∨ i = .getCharAt col row) ∧ rows ≤ row.toNat) ∨
      ∃ slot glyph, i = .createChar slot glyph ∧ 8 ≤ slot.toNat := by
  cases i with
  | setCursor col row => exact .inl ⟨col, row, .inl rfl, rowOutOfRange_iff.1 h⟩
  | getCharAt col row => exact .inl ⟨col, row, .inr rfl, rowOutOfRange_iff.1 h⟩
  | createChar slot glyph => exact .inr ⟨slot, glyph, rfl, slotOutOfRange_iff.1 h⟩
  | _ => cases h

/-- A row past the last has the address of the last (R183). -/
theorem ddramAddress_last {rows : Nat} (h1 : 1 ≤ rows) (h4 : rows ≤ 4) (col : Byte) {row : Byte} (hrow : rows ≤ row.toNat) :
    ddramAddress rows col row = ddramAddress rows col (BitVec.ofNat 8 (rows - 1)) := by
  have hlast : (BitVec.ofNat 8 (rows - 1)).toNat = rows - 1 := by rw [BitVec.toNat_ofNat]; omega
  rw [ddramAddress, ddramAddress, hlast, clampRow_of_le hrow, clampRow_of_lt (by omega)]

/-- Of a slot only its low three bits are used (R183). -/
theorem cgramAddress_mask (slot : Byte) : cgramAddress (slot &&& 0x07) = cgramAddress slot := by
  rw [cgramAddress, BitVec.and_assoc, BitVec.and_self, cgramAddress]

/-- The `misuse` check followed by rests that agree where it passes. -/
theorem requireReady_congr {op : HostOp} {s : State} {body body' : State → Result}
    (h : body (clearOpFail s) = body' (clearOpFail s)) : requireReady op s body = requireReady op s body' := by
  unfold requireReady
  cases s.phase with
  | ready => exact h
  | uninitialized => rfl

/-- Of its operands `setCursor` uses the address alone. -/
theorem exec_setCursor_congr {s : State} {col row row' : Byte} (h : ddramAddress s.rows col row = ddramAddress s.rows col row') :
    exec (.setCursor col row) s = exec (.setCursor col row') s := by
  dsimp only [exec, execSetCursor]
  refine requireReady_congr ?_
  simp only [clearOpFail_rows, h]

/-- Of its operands `getCharAt` uses the address alone. -/
theorem exec_getCharAt_congr {s : State} {col row row' : Byte} (h : ddramAddress s.rows col row = ddramAddress s.rows col row') :
    exec (.getCharAt col row) s = exec (.getCharAt col row') s := by
  cases hc : s.config.canRead with
  | false => rw [exec_getCharAt_unsupported hc, exec_getCharAt_unsupported hc]
  | true =>
    obtain ⟨x, hx, hr⟩ := canRead_iff.1 hc
    rw [exec_getCharAt hx hr, exec_getCharAt hx hr]
    refine requireReady_congr ?_
    simp only [readCharAt, clearOpFail_rows, h]

/-- Settles O57: a row or slot out of range is raised where the operation completes, and the address it gives is that of the
clamped row or the masked slot. -/
theorem outOfRangeLeavesNoMark : Obligations.OutOfRangeLeavesNoMark := by
  refine ⟨fun i s h => operand_of_outOfRange h.2, fun col row s hs => ⟨?_, fun hc => ?_⟩, fun slot glyph s hs hg => ?_,
    fun col row s h1 h4 hrow => ?_, fun slot glyph s => ?_⟩
  · exact (raises_outOfRange_iff (i := .setCursor col row) ⟨rfl, rfl, .inl hs⟩).trans rowOutOfRange_iff
  · exact (raises_outOfRange_iff (i := .getCharAt col row) ⟨rfl, hc, .inl hs⟩).trans rowOutOfRange_iff
  · exact (raises_outOfRange_iff (i := .createChar slot glyph) ⟨(glyphOk_iff glyph).2 hg, rfl, .inl hs⟩).trans slotOutOfRange_iff
  · have haddress := ddramAddress_last h1 h4 col hrow
    exact ⟨exec_setCursor_congr haddress, exec_getCharAt_congr haddress⟩
  · simp only [exec, execCreateChar, cgramAddress_mask]

/-! ## Concurrent entry (R194) -/

/-- How many transitions with nothing presented lead from a state of R124 to `DONE`, none from the idle ones. -/
def SeqState.stepsToDone : SeqState → Nat
  | .i1 => 10
  | .i2 => 9
  | .i3 => 8
  | .i4 => 7
  | .i5 => 6
  | .i6 => 5
  | .i7 => 4
  | .i8 => 3
  | .i9 => 2
  | .i10 => 1
  | .i0 | .done | .readyIdle => 0

/-- Before `DONE` a transition leads to a state that is still busy, one step nearer. -/
theorem seqNext_stepsToDone {p : SeqState} (hp : 0 < p.stepsToDone) (s : State) :
    (seqNext p s).idle = false ∧ (seqNext p s).stepsToDone + 1 = p.stepsToDone := by
  cases p with
  | i0 | done | readyIdle => cases hp
  | _ => exact ⟨rfl, rfl⟩

/-- From a busy state, an instruction presented no later than in `DONE` ends the run. -/
theorem seqRun_refused_of_busy (i : Instr) (rest : List (Option Instr)) {k : Nat} {p : SeqState} (hp : p.idle = false)
    (hk : k ≤ p.stepsToDone) (s : State) :
    seqRun (List.replicate k none ++ some i :: rest) (p, s) = .refused .concurrentEntry := by
  induction k generalizing p s with
  | zero =>
    rw [List.replicate_zero, List.nil_append, seqRun, seqStep_busy hp]
  | succ k ih =>
    obtain ⟨hbusy, hstep⟩ := seqNext_stepsToDone (by omega : 0 < p.stepsToDone) s
    rw [List.replicate_succ, List.cons_append, seqRun_none]
    exact ih hbusy (by omega) _

/-- Settles O58: the `begin` leads to `I1`, ten transitions before `DONE`. -/
theorem concurrentEntryIsRefused : Obligations.ConcurrentEntryIsRefused := by
  intro cols rows k cs s i rest hc hc' hr hr' _ hk
  obtain ⟨hcols, hrows⟩ := begin_operandsOk hc hc' hr hr'
  rw [seqRun, seqStep_begin hcols hrows]
  exact seqRun_refused_of_busy i rest rfl hk _

end Sys2Proof.Machine

/-! The family of spec/70_reset_and_hazards.md. `construct_eq_some_iff` and `construct_eq_none_iff` say what construction makes and
refuses in terms of the typed transport; `transportOf_expander_iff` and `transportOf_gpio_iff` say which raw arguments have one. -/

namespace Sys2Proof.Machine

/-! ## Construction (R200 to R203) -/

/-- An instance is made exactly of arguments that have a transport, lines all distinct, and no unsupported reading asked for. -/
theorem configOf_eq_some_iff {a : ConstructArgs} {c : Config} :
    configOf a = some c ↔ ∃ t, transportOf a.transport = some t ∧ c = ⟨t, a.polarity, a.readAsked⟩ ∧ c.valid = true ∧
      (a.readAsked = true → transportReads a.transport = true) := by
  unfold configOf
  cases transportOf a.transport with
  | none => simp
  | some t =>
    simp only [Option.ite_none_right_eq_some, Bool.and_eq_true, Bool.or_eq_true, Bool.not_eq_true', Option.some.injEq,
      exists_eq_left', imp_iff_not_or, Bool.not_eq_true]
    constructor
    · rintro ⟨⟨hv, hr⟩, rfl⟩
      exact ⟨rfl, hv, hr⟩
    · rintro ⟨rfl, hv, hr⟩
      exact ⟨⟨hv, hr⟩, rfl⟩

/-- After construction the instance holds the values of reset and has done its reset events (R200). -/
theorem construct_eq_some_iff {a : ConstructArgs} {s : State} :
    construct a = some s ↔ ∃ c, configOf a = some c ∧ s = State.fresh c (resetEvents c) := by
  unfold construct
  cases configOf a with
  | none => simp
  | some c => simp [eq_comm]

/-- What construction refuses (R203), still in the terms of the typed transport. -/
theorem construct_eq_none_iff (a : ConstructArgs) :
    construct a = none ↔ ¬∃ t, transportOf a.transport = some t ∧ Config.valid ⟨t, a.polarity, a.readAsked⟩ = true ∧
      (a.readAsked = true → transportReads a.transport = true) := by
  simp only [Option.eq_none_iff_forall_ne_some, ne_eq, construct_eq_some_iff, configOf_eq_some_iff, ← not_exists]
  refine not_congr ⟨?_, ?_⟩
  · rintro ⟨_, _, ⟨t, ht, rfl, hv, hr⟩, _⟩
    exact ⟨t, ht, hv, hr⟩
  · rintro ⟨t, ht, hv, hr⟩
    exact ⟨_, _, ⟨t, ht, rfl, hv, hr⟩, rfl⟩

theorem position_eq_some_iff {p : Nat} {q : Fin 8} : position p = some q ↔ q.val = p := by
  unfold position
  split
  · simp [Fin.ext_iff, eq_comm]
  · simp; omega

/-- An Expander's raw arguments have a transport exactly when the address and the positions are in range (R203 (a)). -/
theorem transportOf_expander_iff {a rs rw e bl d4 d5 d6 d7 : Nat} {canRead : Bool} {t : Transport} :
    transportOf (.expander a rs rw e bl d4 d5 d6 d7 canRead) = some t ↔
      a ≤ 0x7F ∧ ∃ x, t = .expander x ∧ x.addr7 = BitVec.ofNat 7 a ∧
        (expanderPositions x).map Fin.val = [rs, rw, e, bl, d4, d5, d6, d7] := by
  simp only [transportOf, address7, expanderPositions, Option.bind_eq_bind, Option.bind_eq_some_iff, position_eq_some_iff,
    Option.ite_none_right_eq_some, Option.some.injEq, Option.pure_def, List.map_cons, List.map_nil, List.cons.injEq, and_true]
  constructor
  · rintro ⟨_, ⟨ha, rfl⟩, _, hrs, _, hrw, _, he, _, hbl, _, h4, _, h5, _, h6, _, h7, rfl⟩
    exact ⟨ha, _, rfl, rfl, hrs, hrw, he, hbl, h4, h5, h6, h7⟩
  · rintro ⟨ha, x, rfl, hx, hrs, hrw, he, hbl, h4, h5, h6, h7⟩
    exact ⟨_, ⟨ha, rfl⟩, _, hrs, _, hrw, _, he, _, hbl, _, h4, _, h5, _, h6, _, h7, by rw [← hx]⟩

/-- A Gpio instance's raw arguments have a transport exactly when there are four data pins (R203 (b), D3). -/
theorem transportOf_gpio_iff {rs e : Nat} {rw bl : Option Nat} {pins : List Nat} {t : Transport} :
    transportOf (.gpio rs rw e pins bl) = some t ↔
      ∃ d4 d5 d6 d7, pins = [d4, d5, d6, d7] ∧ t = .gpio ⟨rs, rw, e, d4, d5, d6, d7, bl⟩ := by
  constructor
  · intro h
    unfold transportOf at h
    split at h
    · next heq => cases heq
    · next heq =>
      cases heq
      cases h
      exact ⟨_, _, _, _, rfl, rfl⟩
    · cases h
  · rintro ⟨d4, d5, d6, d7, rfl, rfl⟩
    rfl

theorem valid_expander_iff (x : ExpanderCfg) (pol : Polarity) (reads : Bool) :
    Config.valid ⟨.expander x, pol, reads⟩ = true ↔ ((expanderPositions x).map Fin.val).Nodup := by
  rw [List.nodup_map_iff Fin.val_injective]
  exact decide_eq_true_iff

theorem valid_gpio_iff (g : GpioCfg) (pol : Polarity) (reads : Bool) :
    Config.valid ⟨.gpio g, pol, reads⟩ = true ↔ (gpioPins g).Nodup ∧ reads = false := by
  simp [Config.valid]

/-- Eight raw positions are those of an Expander exactly when each is at most 7 (R203 (a)). -/
theorem exists_positions_iff {rs rw e bl d4 d5 d6 d7 : Nat} (addr : BitVec 7) :
    (∃ x : ExpanderCfg, x.addr7 = addr ∧ (expanderPositions x).map Fin.val = [rs, rw, e, bl, d4, d5, d6, d7]) ↔
      ∀ p ∈ [rs, rw, e, bl, d4, d5, d6, d7], p ≤ 7 := by
  constructor
  · rintro ⟨x, -, hx⟩ p hp
    rw [← hx] at hp
    obtain ⟨q, -, rfl⟩ := List.mem_map.1 hp
    omega
  · intro h
    simp only [List.forall_mem_cons, ← Nat.lt_succ_iff] at h
    obtain ⟨hrs, hrw, he, hbl, h4, h5, h6, h7, -⟩ := h
    exact ⟨⟨addr, ⟨rs, hrs⟩, ⟨rw, hrw⟩, ⟨e, he⟩, ⟨bl, hbl⟩, ⟨d4, h4⟩, ⟨d5, h5⟩, ⟨d6, h6⟩, ⟨d7, h7⟩⟩, rfl, rfl⟩

/-- Settles O4: the arguments that have a transport, and the validity of its configuration, written out for each variant. -/
theorem constructionRefusesInvalidConfigurations : Obligations.ConstructionRefusesInvalidConfigurations := by
  constructor
  · intro a rs rw e bl d4 d5 d6 d7 canRead asked pol
    rw [construct_eq_none_iff, ← exists_positions_iff (BitVec.ofNat 7 a)]
    refine not_congr ⟨?_, ?_⟩
    · rintro ⟨t, ht, hv, hr⟩
      obtain ⟨ha, x, rfl, hx⟩ := transportOf_expander_iff.1 ht
      exact ⟨ha, ⟨x, hx⟩, hx.2 ▸ (valid_expander_iff x pol asked).1 hv, hr⟩
    · rintro ⟨ha, ⟨x, haddr, hpos⟩, hn, hr⟩
      exact ⟨.expander x, transportOf_expander_iff.2 ⟨ha, x, rfl, haddr, hpos⟩, (valid_expander_iff x pol asked).2 (hpos ▸ hn), hr⟩
  · intro rs e rw bl pins asked pol
    rw [construct_eq_none_iff, List.length_eq_four]
    refine not_congr ⟨?_, ?_⟩
    · rintro ⟨t, ht, hv, -⟩
      obtain ⟨d4, d5, d6, d7, rfl, rfl⟩ := transportOf_gpio_iff.1 ht
      obtain ⟨hn, ha⟩ := (valid_gpio_iff _ pol asked).1 hv
      exact ⟨⟨d4, d5, d6, d7, rfl⟩, by simpa [gpioPins] using hn, ha⟩
    · rintro ⟨⟨d4, d5, d6, d7, rfl⟩, hn, rfl⟩
      exact ⟨_, transportOf_gpio_iff.2 ⟨d4, d5, d6, d7, rfl, rfl⟩,
        (valid_gpio_iff _ pol false).2 ⟨by simpa [gpioPins] using hn, rfl⟩, nofun⟩

/-- Settles O3: distinct lines make a valid configuration, and the trace of a new instance is its reset events. -/
theorem gpioConstructionSetsUpThePins : Obligations.GpioConstructionSetsUpThePins := by
  intro rs e d4 d5 d6 d7 rw bl pol hn
  have hv := (valid_gpio_iff ⟨rs, rw, e, d4, d5, d6, d7, bl⟩ pol false).2 ⟨hn, rfl⟩
  refine ⟨_, construct_eq_some_iff.2 ⟨_, configOf_eq_some_iff.2 ⟨_, rfl, rfl, hv, nofun⟩, rfl⟩, ?_⟩
  simp [State.fresh, resetEvents, gpioPins, blLevel_eq_xor]

/-- Settles O2: the reset events are the trace of a new instance, and an Expander has none. -/
theorem expanderConstructionEmitsNothing : Obligations.ExpanderConstructionEmitsNothing := by
  intro a s h hp
  obtain ⟨⟨t, pol, reads⟩, -, rfl⟩ := construct_eq_some_iff.1 h
  cases t with
  | expander x => rfl
  | gpio g => cases hp

/-! ## Steps that run nothing (R200, R184) -/

/-- Settles O9: the step is read off what is fetched and what the decoder makes of it. -/
theorem stepIdlesOrRefuses : Obligations.StepIdlesOrRefuses := by
  refine ⟨fun s hr => ?_, fun s r rest e hr hd => ?_⟩
  · simp only [step, fetchRequest, hr]
  · simp only [step, fetchRequest, hr, hd]

/-! ## The backlight on the bus (R217) -/

/-- Settles O51: only `setBacklight` writes the bit, and every other word carries its level. -/
theorem backlightRidesOnEveryWrite : Obligations.BacklightRidesOnEveryWrite := by
  intro i s t x hx hc hi h
  obtain ⟨evs, hr⟩ := exec_runs h
  refine ⟨evs, hr.trace, ?_, fun a w ack hw => ?_⟩
  · rw [hr.backlight]
    exact not_ne_iff.1 (mt writtenBy_backlight_ne hi)
  · have hmem : Emission.busWrite a w ∈ emissions evs := List.mem_map_of_mem hw
    exact backlightBit_of_mem_emittedBy hc hx hi (hr.emitted ▸ hmem)

end Sys2Proof.Machine
